-- ==== Sys2Proof/Word.lean ====
section
/-! DEFINITION. The word types of nixie-bseq (00_scope.md R6, R12): every datum is one byte, an address is 8 bits, a
continuation identifier and an operation code are 4 bits. -/

namespace Sys2Proof

/-- A byte (R12). -/
abbrev Byte := BitVec 8

/-- A buffer-memory address, `BUF_AW = 8` bits (R6). -/
abbrev Addr := BitVec 8

/-- A transfer count, `CNT_W = 8` bits, 0 to 255 (R6). -/
abbrev Count := BitVec 8

/-- A 4-bit code: OP, EV, or a continuation identifier (`K_W = 4`, R6). -/
abbrev Nibble := BitVec 4

/-- A command word (30_encoding.md R70). -/
abbrev CommandWord := BitVec 24

/-- An event word (30_encoding.md R78). -/
abbrev EventWord := BitVec 12

end Sys2Proof
end

