-- ==== Sys2Proof/Config.lean ====
section
/-! DEFINITION. What is fixed for one machine (00_scope.md R7 to R11), and the free values the spec leaves open. A machine
carries its `Config` in its state, as plain data, so that a statement over every state is a statement over every parameter
value and over both settings of each switch. -/

namespace Sys2Proof

/-- The parameters and behaviour switches of 00_scope.md R7, R8, R9 and R11. -/
structure Config where
  /-- DEV_WADDR (R7). -/
  devWaddr : Byte
  /-- DEV_RADDR (R7). -/
  devRaddr : Byte
  /-- CTRL_VALUE (R8). -/
  ctrlValue : Byte
  /-- DEFAULT_TIME, seconds first (R9). -/
  defaultTime : Vector Byte 7
  /-- TRIGGER_SETS_FLAG (R11). -/
  triggerSetsFlag : Bool
  /-- IRQ_NESTING (R11). -/
  irqNesting : Bool
  /-- BC_SPURIOUS (R11). -/
  bcSpurious : Bool
  deriving DecidableEq, Repr

/-- The device write address, OPEN (R7, D22): DESIGN CHOICE, a free value, log entry 1. -/
opaque Config.openWaddr : Byte

/-- The bit in which the two device addresses differ, OPEN (R7, I17): DESIGN CHOICE, a free value, log entry 1. -/
opaque Config.openDirectionBit : Fin 8

/-- The control value VALIDATE enforces, OPEN (R8, D22): DESIGN CHOICE, a free value, log entry 1. -/
opaque Config.openCtrlValue : Byte

/-- The byte that draw number `n` gives buffer address `a` at a reset (20_memory.md R52, I2, I4): DESIGN CHOICE, a free value,
log entry 2. -/
opaque Config.memDraw (n : Nat) (a : Fin 256) : Byte

/-- What draw number `n` leaves in BPTR (10_state.md R23, I3): DESIGN CHOICE, a free value, log entry 3. -/
opaque Config.bptrDraw (n : Nat) : Addr

/-- What draw number `n` leaves in BREM (10_state.md R24, I3): DESIGN CHOICE, a free value, log entry 3. -/
opaque Config.bremDraw (n : Nat) : Count

/-- REG_INDEX, the register index CMDW sends (R10, R50). -/
def Config.regIndex : Byte := 0x00

/-- The documented instance of DEFAULT_TIME (R9). -/
def Config.documentedDefaultTime : Vector Byte 7 :=
  #v[0x00, 0x39, 0x13, 0x03, 0x28, 0x10, 0x13]

/-- The machine's configuration: the OPEN parameters free, the two addresses one bit apart (R7), DEFAULT_TIME as documented
(R9), each switch at the value the spec decides (R11). -/
def Config.machine : Config where
  devWaddr := Config.openWaddr
  devRaddr := Config.openWaddr ^^^ BitVec.twoPow 8 Config.openDirectionBit.val
  ctrlValue := Config.openCtrlValue
  defaultTime := Config.documentedDefaultTime
  triggerSetsFlag := false
  irqNesting := false
  bcSpurious := false

end Sys2Proof
end

