-- ==== Sys2Proof/Syntax.lean ====
section
/-! DEFINITION. The syntax: the closed set of continuation targets (30_encoding.md R80), one constructor of `Instr` for each
row of the opcode table, and what an agent can present to the block (60_exceptions.md R210). -/

namespace Sys2Proof

/-- The continuation targets (30_encoding.md R80). Reserved identifiers have no constructor: a word that holds one is refused
at decode (R84), so CONT never holds one (10_state.md R22). -/
inductive Target where
  | none
  | rdAddr
  | rdRestart
  | rdDevread
  | rdRecv
  | rdFinish
  | wrAddr
  | wrData
  | wrFinish
  deriving DecidableEq, Repr

/-- One constructor for each row of spec/opcode_table.json: ten commands (R71), two events (R78), nine continuation targets
(R80). -/
inductive Instr where
  /-- START k (R100). -/
  | start (k : Target)
  /-- SEND a, n, k (R104). -/
  | send (a : Addr) (n : Count) (k : Target)
  /-- RECV a, n, k (R108). -/
  | recv (a : Addr) (n : Count) (k : Target)
  /-- STOP (R110). -/
  | stop
  /-- RDRTC (R142). -/
  | rdrtc
  /-- WRRTC (R143). -/
  | wrrtc
  /-- FLGCLR (R180). -/
  | flgclr
  /-- STATUS (R182). -/
  | status
  /-- MEMRD a (R183). -/
  | memrd (a : Addr)
  /-- MEMWR a, v (R184). -/
  | memwr (a : Addr) (v : Byte)
  /-- The event BUS_DONE d (R111). -/
  | busDone (d : Byte)
  /-- The event TRIG (R190). -/
  | trig
  /-- Target NONE (R141). -/
  | kNone
  /-- Target RD_ADDR (R144). -/
  | kRdAddr
  /-- Target RD_RESTART (R145). -/
  | kRdRestart
  /-- Target RD_DEVREAD (R146). -/
  | kRdDevread
  /-- Target RD_RECV (R147). -/
  | kRdRecv
  /-- Target RD_FINISH (R148). -/
  | kRdFinish
  /-- Target WR_ADDR (R149). -/
  | kWrAddr
  /-- Target WR_DATA (R150). -/
  | kWrData
  /-- Target WR_FINISH (R151). -/
  | kWrFinish
  deriving DecidableEq, Repr

/-- The row of the opcode table that stands for a continuation target. -/
def Target.instr : Target → Instr
  | .none => .kNone
  | .rdAddr => .kRdAddr
  | .rdRestart => .kRdRestart
  | .rdDevread => .kRdDevread
  | .rdRecv => .kRdRecv
  | .rdFinish => .kRdFinish
  | .wrAddr => .kWrAddr
  | .wrData => .kWrData
  | .wrFinish => .kWrFinish

/-- A word as it stands where the block reads it: on the command port (R70), on the event port (R78), or a continuation
identifier in CONT (R80). -/
inductive PortWord where
  | command (w : CommandWord)
  | event (w : EventWord)
  | target (w : Nibble)
  deriving DecidableEq, Repr

/-- The agents that drive the block (60_exceptions.md R210): the foreground, the trigger input, the bus controller, the
watchdog, power-on. -/
inductive Agent where
  | fg
  | trg
  | bc
  | wdt
  | por
  deriving DecidableEq, Repr

/-- The two sources of a reset (70_reset_and_hazards.md R240). -/
inductive ResetSource where
  | powerOn
  | watchdog
  deriving DecidableEq, Repr

/-- What can be presented to the block for one step (00_scope.md R5): a word on the command port, a word on the event port, or
the reset input. The presenting agent stands beside a word, since a port refuses words of the wrong agent (R212). -/
inductive Input where
  | command (agent : Agent) (w : CommandWord)
  | event (agent : Agent) (w : EventWord)
  | reset (source : ResetSource)
  deriving DecidableEq, Repr

end Sys2Proof
end

