-- ==== Sys2Proof/WellFormed.lean ====
section
/-! DEFINITION. The well-formedness checks the spec states. The operand types of `Instr` admit exactly the operands an encoding
admits (a reserved continuation identifier has no value), so an instruction needs no check of its own; what is checked is the
configuration (00_scope.md R7) and the range of the pseudo-instruction MEMFILL (30_encoding.md R77). Who may present a word
(60_exceptions.md R212) is checked at the ports, in Machine/Ports.lean. -/

namespace Sys2Proof

/-- The number of one bits of a byte. -/
def popcount (v : Byte) : Nat :=
  ((List.range 8).filter fun i => v.getLsbD i).length

/-- R7: the two device addresses differ in exactly one bit. -/
def Config.wellFormed (c : Config) : Bool :=
  popcount (c.devWaddr ^^^ c.devRaddr) == 1

/-- R77: the range of MEMFILL lies in 0x0B to 0xFF. -/
def memfillOk (a : Addr) (bytes : List Byte) : Bool :=
  decide (0x0B ≤ a.toNat) && decide (a.toNat + bytes.length ≤ 256)

end Sys2Proof
end

