-- ==== Sys2Proof/Decode.lean ====
section
/-! DEFINITION. Decoding and encoding (30_encoding.md R70 to R85). Decoding is total on every word of every port: it gives
exactly one instruction or refuses by name (R74). The encoder follows R73, R78 and R80; the pseudo-instructions and the
assembler forms follow R77. -/

namespace Sys2Proof

/-- Why a word is refused at decode (R81 to R84). -/
inductive DecodeRefusal where
  | reservedOpcode
  | reservedField
  | reservedEvent
  | reservedContinuation
  deriving DecidableEq, Repr

/-- What decoding gives: an instruction or a refusal by name (R74). -/
inductive Decoded where
  | instr (i : Instr)
  | refuse (r : DecodeRefusal)
  deriving DecidableEq, Repr

/-- The instruction decoded, if any. -/
def Decoded.instr? : Decoded → Option Instr
  | .instr i => some i
  | .refuse _ => none

/-- The identifier of a target (R80). -/
def Target.code : Target → Nibble
  | .none => 0x0
  | .rdAddr => 0x1
  | .rdRestart => 0x2
  | .rdDevread => 0x3
  | .rdRecv => 0x4
  | .rdFinish => 0x5
  | .wrAddr => 0x6
  | .wrData => 0x7
  | .wrFinish => 0x8

/-- The target an identifier names; 0x9 to 0xF name none (R80, R84). -/
def Target.ofCode (k : Nibble) : Option Target :=
  match k.toNat with
  | 0 => some .none
  | 1 => some .rdAddr
  | 2 => some .rdRestart
  | 3 => some .rdDevread
  | 4 => some .rdRecv
  | 5 => some .rdFinish
  | 6 => some .wrAddr
  | 7 => some .wrData
  | 8 => some .wrFinish
  | _ => Option.none

/-- OP, bits [3:0] of a command word (R70). -/
def CommandWord.op (w : CommandWord) : Nibble := w.extractLsb' 0 4

/-- K, bits [7:4] of a command word (R70). -/
def CommandWord.k (w : CommandWord) : Nibble := w.extractLsb' 4 4

/-- N, bits [15:8] of a command word (R70). -/
def CommandWord.n (w : CommandWord) : Byte := w.extractLsb' 8 8

/-- A, bits [23:16] of a command word (R70). -/
def CommandWord.a (w : CommandWord) : Addr := w.extractLsb' 16 8

/-- EV, bits [3:0] of an event word (R78). -/
def EventWord.ev (w : EventWord) : Nibble := w.extractLsb' 0 4

/-- D, bits [11:4] of an event word (R78). -/
def EventWord.d (w : EventWord) : Byte := w.extractLsb' 4 8

/-- Check 2 of R74: the reserved-zero fields are zero, or the word is refused (R82, R83). -/
def reservedZero (zero : Bool) (rest : Decoded) : Decoded :=
  if zero then rest else .refuse .reservedField

/-- Check 3 of R74: the identifier names a target, or the word is refused (R84). -/
def withTarget (k : Nibble) (f : Target → Instr) : Decoded :=
  match Target.ofCode k with
  | some t => .instr (f t)
  | none => .refuse .reservedContinuation

/-- Decode a command word: the opcode, then the reserved-zero fields, then K (R71, R74, R81, R82, R84). -/
def decodeCommand (w : CommandWord) : Decoded :=
  match w.op.toNat with
  | 1 => reservedZero (w.a == 0 && w.n == 0) (withTarget w.k .start)
  | 2 => withTarget w.k (.send w.a w.n)
  | 3 => withTarget w.k (.recv w.a w.n)
  | 4 => reservedZero (w.a == 0 && w.n == 0 && w.k == 0) (.instr .stop)
  | 5 => reservedZero (w.a == 0 && w.n == 0 && w.k == 0) (.instr .rdrtc)
  | 6 => reservedZero (w.a == 0 && w.n == 0 && w.k == 0) (.instr .wrrtc)
  | 7 => reservedZero (w.a == 0 && w.n == 0 && w.k == 0) (.instr .flgclr)
  | 8 => reservedZero (w.a == 0 && w.n == 0 && w.k == 0) (.instr .status)
  | 9 => reservedZero (w.n == 0 && w.k == 0) (.instr (.memrd w.a))
  | 10 => reservedZero (w.k == 0) (.instr (.memwr w.a w.n))
  | _ => .refuse .reservedOpcode

/-- Decode an event word (R78, R83). -/
def decodeEvent (w : EventWord) : Decoded :=
  match w.ev.toNat with
  | 1 => .instr (.busDone w.d)
  | 2 => reservedZero (w.d == 0) (.instr .trig)
  | _ => .refuse .reservedEvent

/-- Decode a continuation identifier (R80, R84). -/
def decodeTarget (k : Nibble) : Decoded :=
  withTarget k Target.instr

/-- Decode the word of any port. -/
def decode : PortWord → Decoded
  | .command w => decodeCommand w
  | .event w => decodeEvent w
  | .target k => decodeTarget k

/-- `enc(OP, K, N, A)` (R73). -/
def enc (op k : Nibble) (n : Byte) (a : Addr) : CommandWord :=
  a ++ n ++ k ++ op

/-- An event word: D above EV (R78). -/
def encEvent (ev : Nibble) (d : Byte) : EventWord :=
  d ++ ev

/-- The word of an instruction, on the port it stands on (R73, R78, R80). -/
def encode : Instr → PortWord
  | .start k => .command (enc 0x1 k.code 0 0)
  | .send a n k => .command (enc 0x2 k.code n a)
  | .recv a n k => .command (enc 0x3 k.code n a)
  | .stop => .command (enc 0x4 0 0 0)
  | .rdrtc => .command (enc 0x5 0 0 0)
  | .wrrtc => .command (enc 0x6 0 0 0)
  | .flgclr => .command (enc 0x7 0 0 0)
  | .status => .command (enc 0x8 0 0 0)
  | .memrd a => .command (enc 0x9 0 0 a)
  | .memwr a v => .command (enc 0xA 0 v a)
  | .busDone d => .event (encEvent 0x1 d)
  | .trig => .event (encEvent 0x2 0)
  | .kNone => .target Target.none.code
  | .kRdAddr => .target Target.rdAddr.code
  | .kRdRestart => .target Target.rdRestart.code
  | .kRdDevread => .target Target.rdDevread.code
  | .kRdRecv => .target Target.rdRecv.code
  | .kRdFinish => .target Target.rdFinish.code
  | .kWrAddr => .target Target.wrAddr.code
  | .kWrData => .target Target.wrData.code
  | .kWrFinish => .target Target.wrFinish.code

/-- Which port a word of the opcode table stands on. The table numbers the three formats alike and a bare number does not say
which it is: the narrowest format that has room for `nbits` and whose decoder accepts the bits is taken, a continuation
identifier in one byte, an event in two, else a command. DESIGN CHOICE, log entry 6. -/
def tableWord (nbits w : Nat) : PortWord :=
  if nbits ≤ 8 ∧ w < 16 ∧ (decodeTarget (BitVec.ofNat 4 w)).instr?.isSome then .target (BitVec.ofNat 4 w)
  else if nbits ≤ 16 ∧ w < 4096 ∧ (decodeEvent (BitVec.ofNat 12 w)).instr?.isSome then .event (BitVec.ofNat 12 w)
  else .command (BitVec.ofNat 24 w)

/-- What the decoder reads from a word of the opcode table. -/
def decodeTableWord (nbits w : Nat) : Option Instr :=
  if w < 16777216 then (decode (tableWord nbits w)).instr? else none

/-- `MEMFILL a, b0, ..., bm-1`: one MEMWR a byte, at rising addresses (R77). -/
def memfillFrom (a : Addr) : List Byte → List Instr
  | [] => []
  | b :: bs => .memwr a b :: memfillFrom (a + 1) bs

/-- The pseudo-instruction MEMFILL: its range lies in 0x0B to 0xFF, or it has no expansion (R77). -/
def expandMemfill (a : Addr) (bytes : List Byte) : Option (List Instr) :=
  if memfillOk a bytes then some (memfillFrom a bytes) else none

/-- The pseudo-instruction SENDN (R77). -/
def expandSendn (a : Addr) (n : Count) : Instr :=
  .send a n .none

/-- The name the assembler writes for a K operand (R77, R80). -/
def Target.name : Target → String
  | .none => "NONE"
  | .rdAddr => "RD_ADDR"
  | .rdRestart => "RD_RESTART"
  | .rdDevread => "RD_DEVREAD"
  | .rdRecv => "RD_RECV"
  | .rdFinish => "RD_FINISH"
  | .wrAddr => "WR_ADDR"
  | .wrData => "WR_DATA"
  | .wrFinish => "WR_FINISH"

/-- The assembler form of a command, numbers in decimal; events and targets have none (R77). -/
def assembly : Instr → Option String
  | .start k => some ("START " ++ k.name)
  | .send a n k => some ("SEND " ++ toString a.toNat ++ ", " ++ toString n.toNat ++ ", " ++ k.name)
  | .recv a n k => some ("RECV " ++ toString a.toNat ++ ", " ++ toString n.toNat ++ ", " ++ k.name)
  | .stop => some "STOP"
  | .rdrtc => some "RDRTC"
  | .wrrtc => some "WRRTC"
  | .flgclr => some "FLGCLR"
  | .status => some "STATUS"
  | .memrd a => some ("MEMRD " ++ toString a.toNat)
  | .memwr a v => some ("MEMWR " ++ toString a.toNat ++ ", " ++ toString v.toNat)
  | .busDone _ => none
  | .trig => none
  | .kNone => none
  | .kRdAddr => none
  | .kRdRestart => none
  | .kRdDevread => none
  | .kRdRecv => none
  | .kRdFinish => none
  | .kWrAddr => none
  | .kWrData => none
  | .kWrFinish => none

end Sys2Proof
end

