-- ==== Sys2Proof/Machine/State.lean ====
section
/-! DEFINITION. The machine's state as plain data: every register of 10_state.md, the buffer memory, the bus controller's
outstanding operation and the bus history, the command port's response, and what the agents will present. Beside it, the
reasons a step can stop, and the state after reset (70_reset_and_hazards.md R240). -/

namespace Sys2Proof.Machine

/-- PHASE (10_state.md R21). -/
inductive Phase where
  | idle
  | command
  | sending
  | receiving
  deriving DecidableEq, Repr

/-- HCAUSE (60_exceptions.md R214); codes 4 to 15 are never raised and have no value here. -/
inductive Cause where
  | none
  | spuriousCompletion
  | bufferRange
  | protectedWrite
  deriving DecidableEq, Repr

/-- An operation handed to the bus controller (00_scope.md R14): a start condition, a byte to transmit, a byte to receive with
or without acknowledge, a stop condition. -/
inductive BusOp where
  | start
  | tx (b : Byte)
  | rx (ack : Bool)
  | stop
  deriving DecidableEq, Repr

/-- What the command port returns (10_state.md R35, 30_encoding.md R76): one bit, a byte, or the 16-bit status word. The one
bit of FLGCLR and MEMWR is a DESIGN CHOICE, log entry 8. -/
inductive Response where
  | bit (b : BitVec 1)
  | byte (b : Byte)
  | word (w : BitVec 16)
  deriving DecidableEq, Repr

/-- The state. Each field names the rule it comes from; `fill`, `draws` and `inputs` are the model's own. -/
structure State where
  /-- The machine's parameters and switches (00_scope.md R7 to R11). No step writes it. -/
  cfg : Config
  /-- BUSY (R20). -/
  busy : Bool
  /-- PHASE (R21). -/
  phase : Phase
  /-- CONT (R22). -/
  cont : Target
  /-- BPTR (R23). -/
  bptr : Addr
  /-- BREM (R24). -/
  brem : Count
  /-- FLAG, the Shared Flag (R27). -/
  flag : Bool
  /-- HALT (R28). -/
  halt : Bool
  /-- HCAUSE (R28). -/
  hcause : Cause
  /-- BUFMEM (R29): the bytes that differ from what an unlisted address reads as, at rising addresses. -/
  mem : List Host.Cell
  /-- What REGBLK and RAM came up with at the latest reset (20_memory.md R52): what an unlisted address outside the ROM reads
  as. The model's own field: free values, log entry 2. -/
  fill : Vector Byte 256
  /-- OUTST (R31). -/
  outst : Option BusOp
  /-- BH (R34), oldest first. -/
  bh : List BusOp
  /-- The response of the latest step's command, if it gave one (R35). -/
  resp : Option Response
  /-- Which draw of the free values comes next. The model's own field, log entry 3. -/
  draws : Nat
  /-- What the agents present, first first: one schedule of those 60_exceptions.md R211 leaves free. The model's own field,
  log entry 5. -/
  inputs : List Input
  deriving DecidableEq, Repr

/-- The faults. -/
inductive Fault where
  /-- Raised by `step`, and by every meaning, where HALT = 1 and no reset is presented: the block has no step (60_exceptions.md
  R215). The cause is HCAUSE, which a model observes so (10_state.md R36). Safe: the machine is stuck as the spec says. -/
  | halted (c : Cause)
  deriving DecidableEq, Repr

/-- The refusals: words the spec gives no meaning (60_exceptions.md R219), and handlers that nest. -/
inductive Refusal where
  /-- Raised by an arm of `exec` whose instruction has no meaning yet. Safe. -/
  | notModelled (mnemonic : String)
  /-- Raised by `step` on a command word whose OP names no operation (30_encoding.md R81). Safe: a run with a refusal has no
  next state (log entry 7). -/
  | reservedOpcode
  /-- Raised by `step` on a word with a non-zero reserved-zero field (R82, R83). Safe (log entry 7). -/
  | reservedField
  /-- Raised by `step` on an event word whose EV names no event (R83). Safe (log entry 7). -/
  | reservedEvent
  /-- Raised by `step` on a START, SEND or RECV word whose K names no target (R84). Safe (log entry 7). -/
  | reservedContinuation
  /-- Raised by `step` on a word presented by an agent that does not own it (60_exceptions.md R212). Safe (log entry 7). -/
  | contextViolation
  /-- Raised by `step` on an event while IRQ_NESTING is true: the spec decides false and says nothing of what preemption does
  (00_scope.md R11, 60_exceptions.md R211, D14). Safe (log entry 10). -/
  | nestedHandlers
  deriving DecidableEq, Repr

/-- The state that a reset leaves (70_reset_and_hazards.md R240), for a machine of configuration `c`, with draw number `n`, and
with `inputs` still to come. The values R240 calls unspecified are free values (log entries 2 and 3). -/
def State.afterReset (c : Config) (n : Nat) (inputs : List Input) : State where
  cfg := c
  busy := false
  phase := .idle
  cont := .none
  bptr := Config.bptrDraw n
  brem := Config.bremDraw n
  flag := false
  halt := false
  hcause := .none
  mem := []
  fill := Vector.ofFn fun a => Config.memDraw n a
  outst := none
  bh := []
  resp := none
  draws := n + 1
  inputs := inputs

/-- The machine right after its power-on reset (R240), with nothing presented yet (log entry 5). -/
def State.reset : State :=
  State.afterReset Config.machine 0 []

end Sys2Proof.Machine
end

