-- ==== Sys2Proof/Machine/Ops.lean ====
section
/-! DEFINITION. The named operations over the state (00_scope.md R13, R14): reading and writing the buffer memory, issuing to
the bus controller, taking a fault, free draws, and the reset. There is no return from a fault: only a reset leaves the halted
state (60_exceptions.md R218). -/

namespace Sys2Proof.Machine

/-! ### The buffer memory (20_memory.md R50 to R54) -/

/-- REGBLK's base (R50). -/
def regblkBase : Addr := 0x00#8

/-- CMDW's base (R50). -/
def cmdwBase : Addr := 0x08#8

/-- CMDR's address (R50). -/
def cmdrBase : Addr := 0x0A#8

/-- Is the address one of CMDW and CMDR, the ROM (R50)? -/
def isRom (a : Addr) : Bool :=
  decide (0x08 ≤ a.toNat) && decide (a.toNat ≤ 0x0A)

/-- What an unlisted address reads as: the ROM its constants (R50, R52), every other address the byte drawn at the latest reset
(R52, log entry 2). -/
def unlisted (s : State) (a : Addr) : Byte :=
  if a = 0x08#8 then s.cfg.devWaddr
  else if a = 0x09#8 then Config.regIndex
  else if a = 0x0A#8 then s.cfg.devRaddr
  else s.fill[a.toNat]'a.isLt

/-- The byte a cell list holds at a key. -/
def lookupCell : List Host.Cell → Nat → Option Byte
  | [], _ => none
  | c :: cs, k => if c.1 = k then some c.2 else lookupCell cs k

/-- A cell list without a key. -/
def eraseCell : List Host.Cell → Nat → List Host.Cell
  | [], _ => []
  | c :: cs, k => if c.1 = k then eraseCell cs k else c :: eraseCell cs k

/-- A rising cell list with a byte put at a key. -/
def insertCell : List Host.Cell → Nat → Byte → List Host.Cell
  | [], k, v => [(k, v)]
  | c :: cs, k, v =>
    if k < c.1 then (k, v) :: c :: cs
    else if c.1 = k then (k, v) :: cs
    else c :: insertCell cs k v

/-- MemRead(a, 1): one byte, no side effect (R54). -/
def memRead (s : State) (a : Addr) : Byte :=
  (lookupCell s.mem a.toNat).getD (unlisted s a)

/-- The cells after one byte is written, in the canonical form. A write to the ROM leaves the ROM as it is: no rule makes one
(R54), so only states no run reaches ask for it. DESIGN CHOICE, log entry 4. -/
def cellsAfter (s : State) (a : Addr) (v : Byte) : List Host.Cell :=
  if isRom a then s.mem
  else if v = unlisted s a then eraseCell s.mem a.toNat
  else insertCell s.mem a.toNat v

/-- MemWrite(a, 1, v): one byte, no other (R54). -/
def memWrite (s : State) (a : Addr) (v : Byte) : State :=
  { s with mem := cellsAfter s a v }

/-- Several bytes written in order. -/
def memWriteAll (s : State) : List (Addr × Byte) → State
  | [] => s
  | p :: ps => memWriteAll (memWrite s p.1 p.2) ps

/-- May this cell be listed: its address exists and is no ROM, and its byte is not what the address reads as unlisted? -/
def cellListable (s : State) (c : Host.Cell) : Bool :=
  decide (c.1 < 256) && !isRom (BitVec.ofNat 8 c.1) && !decide (c.2 = unlisted s (BitVec.ofNat 8 c.1))

/-- Are the keys of a cell list strictly rising? -/
def keysRising : List Host.Cell → Bool
  | [] => true
  | c :: cs => cs.all (fun d => decide (c.1 < d.1)) && keysRising cs

/-- The canonical form of the memory. -/
def Memory.wf (s : State) : Bool :=
  keysRising s.mem && s.mem.all (cellListable s)

/-! ### The bus controller's request port -/

/-- Issue(op) (00_scope.md R14, 10_state.md R31): the history grows by the operation, and the operation is outstanding, but for
a stop condition, which has no completion and leaves OUTST as it is. -/
def issue (op : BusOp) (s : State) : State :=
  { s with bh := s.bh ++ [op], outst := if op = .stop then s.outst else some op }

/-! ### Faults -/

/-- Taking a fault (60_exceptions.md R215): HALT and HCAUSE are written and nothing else. The command gets no response
(30_encoding.md R76). -/
def raiseFault (c : Cause) (s : State) : State :=
  { s with halt := true, hcause := c }

/-- A rule of the block runs only while HALT = 0; a halted block has no step (R215). -/
def whileRunning (s : State) (f : State → State) : Host.Outcome State Fault Refusal :=
  if s.halt then .fault (.halted s.hcause) else .next (f s)

/-! ### Free values and reset -/

/-- BPTR and BREM take free values: what they hold outside Sending and Receiving is unspecified (10_state.md R23, R24, I3; log
entry 3). -/
def drawCursor (s : State) : State :=
  { s with bptr := Config.bptrDraw s.draws, brem := Config.bremDraw s.draws, draws := s.draws + 1 }

/-- The reset input, taken at a step boundary in any state, the halted one too (70_reset_and_hazards.md R240, 60_exceptions.md
R225). REGBLK and RAM are drawn anew. The machine's parameters stay, and so does what the agents present later. -/
def applyReset (s : State) : State :=
  State.afterReset s.cfg s.draws s.inputs

end Sys2Proof.Machine
end

