-- ==== Sys2Proof/Machine/Operands.lean ====
section
/-! DEFINITION. The operand forms and the engine's arithmetic (40_bus_engine.md R106, R117): buffer ranges, the cursor's
advance, the acknowledge rule. -/

namespace Sys2Proof.Machine

/-- send_ok(a, n), on natural numbers (20_memory.md R53). -/
def sendOk (a : Addr) (n : Count) : Bool :=
  decide (a.toNat + n.toNat ≤ 256)

/-- recv_ok(a, n), on natural numbers (20_memory.md R53). -/
def recvOk (a : Addr) (n : Count) : Bool :=
  decide (a.toNat + n.toNat ≤ 256) && (decide (a.toNat + n.toNat ≤ 0x08) || decide (0x0B ≤ a.toNat))

/-- ack(r): acknowledge if more than the byte being armed is still to come (R106). -/
def ackFor (r : Count) : Bool :=
  decide (1 < r.toNat)

/-- The next buffer address, modulo 256 (R117). -/
def nextAddr (a : Addr) : Addr :=
  a + 1

/-- One less, on naturals (R117). The rules apply it to counts of 1 or more; 0 stays 0, which only states no run reaches ask
for. DESIGN CHOICE, log entry 4. -/
def lessOne (n : Count) : Count :=
  BitVec.ofNat 8 (n.toNat - 1)

/-- The address a host may write: RAM, 0x0B to 0xFF (20_memory.md R51, 42_handoff.md R184). -/
def hostWritable (a : Addr) : Bool :=
  decide (0x0A < a.toNat)

/-- Bit 7 of a seconds byte, its "invalid/stopped" flag (10_state.md R30). -/
def invalidBit (seconds : Byte) : Bool :=
  seconds.getLsbD 7

/-- The bytes VALIDATE puts into a block it finds invalid: DEFAULT_TIME, then CTRL_VALUE (41_continuations.md R152). -/
def defaultBlock (c : Config) : List (Addr × Byte) :=
  [(0x00#8, c.defaultTime[0]), (0x01#8, c.defaultTime[1]), (0x02#8, c.defaultTime[2]), (0x03#8, c.defaultTime[3]),
   (0x04#8, c.defaultTime[4]), (0x05#8, c.defaultTime[5]), (0x06#8, c.defaultTime[6]), (0x07#8, c.ctrlValue)]

end Sys2Proof.Machine
end

