-- ==== Sys2Proof/Machine/Flags.lean ====
section
/-! DEFINITION. The flag computations and the status view: FLAG's set and clear (10_state.md R27), the codes of PHASE and HCAUSE
(R21, 60_exceptions.md R214), the status word (R36), and the accept and reject responses (30_encoding.md R76). -/

namespace Sys2Proof.Machine

/-- PHASE's code (R21). -/
def Phase.code : Phase → BitVec 2
  | .idle => 0b00
  | .command => 0b01
  | .sending => 0b10
  | .receiving => 0b11

/-- HCAUSE's code (60_exceptions.md R214). -/
def Cause.code : Cause → Nibble
  | .none => 0
  | .spuriousCompletion => 1
  | .bufferRange => 2
  | .protectedWrite => 3

/-- The status word: CONT, FLAG, PHASE and BUSY, from bit 7 down, zero-extended (R36, 42_handoff.md R182). -/
def statusWord (s : State) : BitVec 16 :=
  (s.cont.code ++ BitVec.ofBool s.flag ++ s.phase.code ++ BitVec.ofBool s.busy).setWidth 16

/-- FLAG is set (R27). -/
def setFlag (s : State) : State :=
  { s with flag := true }

/-- FLAG is cleared (R27). -/
def clearFlag (s : State) : State :=
  { s with flag := false }

/-- The response of an accepted request, and of FLGCLR and MEMWR (R76). -/
def accepted : Option Response :=
  some (.bit 1)

/-- The response of a rejected request (R76). -/
def rejected : Option Response :=
  some (.bit 0)

/-- A command's answer: its state and its response, or none where it faulted (R76). -/
abbrev Answer := State × Option Response

/-- The answer as the requester on the command port sees it (R76). -/
def respond (r : Answer) : State :=
  { r.1 with resp := r.2 }

/-- The answer with its response discarded, as a continuation or the trigger handler takes it (41_continuations.md R153). -/
def dropResponse (r : Answer) : State :=
  r.1

/-- A step that is no command leaves no response (10_state.md R35). -/
def silent (s : State) : State :=
  { s with resp := none }

end Sys2Proof.Machine
end

