-- ==== Sys2Proof/Machine/Engine.lean ====
section
/-! DEFINITION. The Bus Engine's four requests (40_bus_engine.md): START, SEND, RECV and STOP, each an operation that a command,
a continuation or the trigger handler makes, and the meaning of its command. -/

namespace Sys2Proof.Machine

/-- START k (R100). -/
def requestStart (k : Target) (s : State) : Answer :=
  if s.busy then (s, rejected)
  else (issue .start { s with busy := true, phase := .command, cont := k }, accepted)

/-- SEND a, n, k (R104): count, then BUSY, then range (D9). -/
def requestSend (a : Addr) (n : Count) (k : Target) (s : State) : Answer :=
  if n = 0#8 then (s, accepted)
  else if s.busy then (s, rejected)
  else if !sendOk a n then (raiseFault .bufferRange s, none)
  else
    (issue (.tx (memRead s a))
      { s with busy := true, phase := .sending, cont := k, bptr := nextAddr a, brem := lessOne n }, accepted)

/-- RECV a, n, k (R108): count, then BUSY, then range (D9). -/
def requestRecv (a : Addr) (n : Count) (k : Target) (s : State) : Answer :=
  if n = 0#8 then (s, accepted)
  else if s.busy then (s, rejected)
  else if !recvOk a n then (raiseFault .bufferRange s, none)
  else
    (issue (.rx (ackFor n)) { s with busy := true, phase := .receiving, cont := k, bptr := a, brem := n }, accepted)

/-- STOP (R110). -/
def requestStop (s : State) : Answer :=
  if s.busy then (s, rejected)
  else (issue .stop s, accepted)

/-- The command START (R100). -/
def execStart (k : Target) (s : State) : Host.Outcome State Fault Refusal :=
  whileRunning s fun s => respond (requestStart k s)

/-- The command SEND (R104). -/
def execSend (a : Addr) (n : Count) (k : Target) (s : State) : Host.Outcome State Fault Refusal :=
  whileRunning s fun s => respond (requestSend a n k s)

/-- The command RECV (R108). -/
def execRecv (a : Addr) (n : Count) (k : Target) (s : State) : Host.Outcome State Fault Refusal :=
  whileRunning s fun s => respond (requestRecv a n k s)

/-- The command STOP (R110). -/
def execStop (s : State) : Host.Outcome State Fault Refusal :=
  whileRunning s fun s => respond (requestStop s)

end Sys2Proof.Machine
end

