-- ==== Sys2Proof/Machine/Protocol.lean ====
section
/-! DEFINITION. The Clock Protocol (41_continuations.md): the two requests that start a chain, VALIDATE, the nine continuation
targets, and Dispatch. -/

namespace Sys2Proof.Machine

/-- RDRTC (R142). -/
def requestRdrtc (s : State) : Answer :=
  requestStart .rdAddr s

/-- WRRTC (R143). -/
def requestWrrtc (s : State) : Answer :=
  requestStart .wrAddr s

/-- The command RDRTC (R142). -/
def execRdrtc (s : State) : Host.Outcome State Fault Refusal :=
  whileRunning s fun s => respond (requestRdrtc s)

/-- The command WRRTC (R143). -/
def execWrrtc (s : State) : Host.Outcome State Fault Refusal :=
  whileRunning s fun s => respond (requestWrrtc s)

/-! ### VALIDATE (R152) -/

/-- Is the seconds byte's "invalid/stopped" bit set? -/
def secondsInvalid (s : State) : Bool :=
  invalidBit (memRead s 0x00#8)

/-- Does the control byte differ from CTRL_VALUE? -/
def controlWrong (s : State) : Bool :=
  !decide (memRead s 0x07#8 = s.cfg.ctrlValue)

/-- The first correction: the whole block, where the seconds byte is invalid. -/
def repairSeconds (s : State) : State :=
  if secondsInvalid s then memWriteAll s (defaultBlock s.cfg) else s

/-- The second correction: the control byte, where it is wrong. -/
def repairControl (s : State) : State :=
  if controlWrong s then memWrite s 0x07#8 s.cfg.ctrlValue else s

/-- Does either correction apply (`wb`)? -/
def writeBackNeeded (s : State) : Bool :=
  secondsInvalid s || controlWrong (repairSeconds s)

/-- The write-back, where it is needed; its response is discarded. -/
def writeBack (needed : Bool) (s : State) : State :=
  if needed then dropResponse (requestWrrtc s) else s

/-- VALIDATE: the two corrections, the write-back, then FLAG. -/
def validate (s : State) : State :=
  setFlag (writeBack (writeBackNeeded s) (repairControl (repairSeconds s)))

/-! ### The targets' actions -/

/-- NONE (R141). -/
def actNone (s : State) : State :=
  s

/-- RD_ADDR (R144). -/
def actRdAddr (s : State) : State :=
  dropResponse (requestSend cmdwBase 2#8 .rdRestart s)

/-- RD_RESTART (R145). -/
def actRdRestart (s : State) : State :=
  dropResponse (requestStart .rdDevread s)

/-- RD_DEVREAD (R146). -/
def actRdDevread (s : State) : State :=
  dropResponse (requestSend cmdrBase 1#8 .rdRecv s)

/-- RD_RECV (R147). -/
def actRdRecv (s : State) : State :=
  dropResponse (requestRecv regblkBase 8#8 .rdFinish s)

/-- RD_FINISH (R148): STOP, then VALIDATE. -/
def actRdFinish (s : State) : State :=
  validate (dropResponse (requestStop s))

/-- WR_ADDR (R149). -/
def actWrAddr (s : State) : State :=
  dropResponse (requestSend cmdwBase 2#8 .wrData s)

/-- WR_DATA (R150). -/
def actWrData (s : State) : State :=
  dropResponse (requestSend regblkBase 8#8 .wrFinish s)

/-- WR_FINISH (R151). -/
def actWrFinish (s : State) : State :=
  dropResponse (requestStop s)

/-- Dispatch(k) (R140). -/
def dispatch : Target → State → State
  | .none, s => actNone s
  | .rdAddr, s => actRdAddr s
  | .rdRestart, s => actRdRestart s
  | .rdDevread, s => actRdDevread s
  | .rdRecv, s => actRdRecv s
  | .rdFinish, s => actRdFinish s
  | .wrAddr, s => actWrAddr s
  | .wrData, s => actWrData s
  | .wrFinish, s => actWrFinish s

/-! ### The targets as rows of the opcode table: what Dispatch of the target does -/

/-- K.NONE (R141). -/
def execKNone (s : State) : Host.Outcome State Fault Refusal :=
  whileRunning s fun s => silent (actNone s)

/-- K.RD_ADDR (R144). -/
def execKRdAddr (s : State) : Host.Outcome State Fault Refusal :=
  whileRunning s fun s => silent (actRdAddr s)

/-- K.RD_RESTART (R145). -/
def execKRdRestart (s : State) : Host.Outcome State Fault Refusal :=
  whileRunning s fun s => silent (actRdRestart s)

/-- K.RD_DEVREAD (R146). -/
def execKRdDevread (s : State) : Host.Outcome State Fault Refusal :=
  whileRunning s fun s => silent (actRdDevread s)

/-- K.RD_RECV (R147). -/
def execKRdRecv (s : State) : Host.Outcome State Fault Refusal :=
  whileRunning s fun s => silent (actRdRecv s)

/-- K.RD_FINISH (R148). -/
def execKRdFinish (s : State) : Host.Outcome State Fault Refusal :=
  whileRunning s fun s => silent (actRdFinish s)

/-- K.WR_ADDR (R149). -/
def execKWrAddr (s : State) : Host.Outcome State Fault Refusal :=
  whileRunning s fun s => silent (actWrAddr s)

/-- K.WR_DATA (R150). -/
def execKWrData (s : State) : Host.Outcome State Fault Refusal :=
  whileRunning s fun s => silent (actWrData s)

/-- K.WR_FINISH (R151). -/
def execKWrFinish (s : State) : Host.Outcome State Fault Refusal :=
  whileRunning s fun s => silent (actWrFinish s)

end Sys2Proof.Machine
end

