-- ==== Sys2Proof/Machine/Completion.lean ====
section
/-! DEFINITION. BUS_DONE, the completion interrupt (40_bus_engine.md R111 to R116). -/

namespace Sys2Proof.Machine

/-- The engine with its step ended (R115): CONT, PHASE and BUSY cleared. BPTR and BREM are unspecified from here on, so they
take free values (log entry 3). -/
def engineIdle (s : State) : State :=
  drawCursor { s with cont := .none, phase := .idle, busy := false }

/-- Completion (R115): CONT is captured, the engine cleared, then the captured target dispatched. -/
def complete (s : State) : State :=
  dispatch s.cont (engineIdle s)

/-- The arm for PHASE = Sending (R112). -/
def doneSending (s : State) : State :=
  if 0 < s.brem.toNat then
    { issue (.tx (memRead s s.bptr)) s with bptr := nextAddr s.bptr, brem := lessOne s.brem }
  else complete s

/-- The received byte stored and the cursor moved on (R113). -/
def storeReceived (d : Byte) (s : State) : State :=
  { memWrite s s.bptr d with bptr := nextAddr s.bptr, brem := lessOne s.brem }

/-- The arm for PHASE = Receiving, its byte stored (R113): arm the next receive or complete. -/
def armOrComplete (s : State) : State :=
  if 0 < s.brem.toNat then issue (.rx (ackFor s.brem)) s else complete s

/-- The arm for PHASE = Receiving (R113). -/
def doneReceiving (d : Byte) (s : State) : State :=
  armOrComplete (storeReceived d s)

/-- Delivering the event ends the outstanding operation (10_state.md R32). -/
def delivered (s : State) : State :=
  { s with outst := none }

/-- The handler by phase; Idle, which BUSY = 1 rules out in every run, is treated as Command (R114). -/
def handleCompletion (d : Byte) (s : State) : State :=
  match s.phase with
  | .sending => doneSending s
  | .receiving => doneReceiving d s
  | .command => complete s
  | .idle => complete s

/-- BUS_DONE d (R111): with BUSY = 0 a fault, before any other read or write. -/
def busDone (d : Byte) (s : State) : State :=
  if s.busy then handleCompletion d (delivered s) else raiseFault .spuriousCompletion s

/-- The event BUS_DONE (R111). -/
def execBusDone (d : Byte) (s : State) : Host.Outcome State Fault Refusal :=
  whileRunning s fun s => silent (busDone d s)

end Sys2Proof.Machine
end

