-- ==== Sys2Proof/Machine/Handoff.lean ====
section
/-! DEFINITION. The flag handoff, the host's access and the trigger (42_handoff.md): FLGCLR, STATUS, MEMRD, MEMWR, TRIG. -/

namespace Sys2Proof.Machine

/-- FLGCLR (R180). -/
def requestFlgclr (s : State) : Answer :=
  (clearFlag s, accepted)

/-- STATUS (R182). -/
def requestStatus (s : State) : Answer :=
  (s, some (.word (statusWord s)))

/-- MEMRD a (R183). -/
def requestMemrd (a : Addr) (s : State) : Answer :=
  (s, some (.byte (memRead s a)))

/-- MEMWR a, v (R184). -/
def requestMemwr (a : Addr) (v : Byte) (s : State) : Answer :=
  if hostWritable a then (memWrite s a v, accepted) else (raiseFault .protectedWrite s, none)

/-- The trigger handler (R190): a read request, its response discarded; FLAG too where TRIGGER_SETS_FLAG. -/
def trigger (s : State) : State :=
  if s.cfg.triggerSetsFlag then setFlag (dropResponse (requestRdrtc s)) else dropResponse (requestRdrtc s)

/-- The command FLGCLR (R180). -/
def execFlgclr (s : State) : Host.Outcome State Fault Refusal :=
  whileRunning s fun s => respond (requestFlgclr s)

/-- The command STATUS (R182). -/
def execStatus (s : State) : Host.Outcome State Fault Refusal :=
  whileRunning s fun s => respond (requestStatus s)

/-- The command MEMRD (R183). -/
def execMemrd (a : Addr) (s : State) : Host.Outcome State Fault Refusal :=
  whileRunning s fun s => respond (requestMemrd a s)

/-- The command MEMWR (R184). -/
def execMemwr (a : Addr) (v : Byte) (s : State) : Host.Outcome State Fault Refusal :=
  whileRunning s fun s => respond (requestMemwr a v s)

/-- The event TRIG (R190). -/
def execTrig (s : State) : Host.Outcome State Fault Refusal :=
  whileRunning s fun s => silent (trigger s)

end Sys2Proof.Machine
end

