-- ==== Sys2Proof/Machine/Dispatch.lean ====
section
/-! DEFINITION. One arm for each constructor of `Instr`, each a call of its meaning. -/

namespace Sys2Proof.Machine

def exec (i : Instr) (s : State) : Host.Outcome State Fault Refusal :=
  match i with
  | .start k => Sys2Proof.Machine.execStart k s
  | .send a n k => Sys2Proof.Machine.execSend a n k s
  | .recv a n k => Sys2Proof.Machine.execRecv a n k s
  | .stop => Sys2Proof.Machine.execStop s
  | .rdrtc => Sys2Proof.Machine.execRdrtc s
  | .wrrtc => Sys2Proof.Machine.execWrrtc s
  | .flgclr => Sys2Proof.Machine.execFlgclr s
  | .status => Sys2Proof.Machine.execStatus s
  | .memrd a => Sys2Proof.Machine.execMemrd a s
  | .memwr a v => Sys2Proof.Machine.execMemwr a v s
  | .busDone d => Sys2Proof.Machine.execBusDone d s
  | .trig => Sys2Proof.Machine.execTrig s
  | .kNone => Sys2Proof.Machine.execKNone s
  | .kRdAddr => Sys2Proof.Machine.execKRdAddr s
  | .kRdRestart => Sys2Proof.Machine.execKRdRestart s
  | .kRdDevread => Sys2Proof.Machine.execKRdDevread s
  | .kRdRecv => Sys2Proof.Machine.execKRdRecv s
  | .kRdFinish => Sys2Proof.Machine.execKRdFinish s
  | .kWrAddr => Sys2Proof.Machine.execKWrAddr s
  | .kWrData => Sys2Proof.Machine.execKWrData s
  | .kWrFinish => Sys2Proof.Machine.execKWrFinish s

end Sys2Proof.Machine
end

