-- ==== Sys2Proof/Machine/Ports.lean ====
section
/-! DEFINITION. The ports: what the next presented input asks of the block (00_scope.md R5), who may present what
(60_exceptions.md R212), when a step is enabled (R215), and what is refused (R219). -/

namespace Sys2Proof.Machine

/-- What the next step of the machine is. -/
inductive Next where
  /-- No agent presents anything: the block waits (70_reset_and_hazards.md R240). -/
  | wait
  /-- The reset input, with the rest still to come. -/
  | reset (s : State)
  /-- No step is enabled (60_exceptions.md R215). -/
  | stuck (r : Fault)
  /-- The word is given no meaning (R219). -/
  | refuse (r : Refusal)
  /-- This instruction runs, with the rest still to come. -/
  | run (i : Instr) (s : State)
  deriving DecidableEq, Repr

/-- A refusal at decode, as the machine's refusal (R219). -/
def refusalOf : DecodeRefusal → Refusal
  | .reservedOpcode => .reservedOpcode
  | .reservedField => .reservedField
  | .reservedEvent => .reservedEvent
  | .reservedContinuation => .reservedContinuation

/-- The one agent that may present an instruction's word on its port (R212): a command is FG's, BUS_DONE is BC's, TRIG is
TRG's. A continuation target has no port and runs by Dispatch alone (30_encoding.md R80). -/
def presenter : Instr → Option Agent
  | .start _ => some .fg
  | .send _ _ _ => some .fg
  | .recv _ _ _ => some .fg
  | .stop => some .fg
  | .rdrtc => some .fg
  | .wrrtc => some .fg
  | .flgclr => some .fg
  | .status => some .fg
  | .memrd _ => some .fg
  | .memwr _ _ => some .fg
  | .busDone _ => some .bc
  | .trig => some .trg
  | .kNone => none
  | .kRdAddr => none
  | .kRdRestart => none
  | .kRdDevread => none
  | .kRdRecv => none
  | .kRdFinish => none
  | .kWrAddr => none
  | .kWrData => none
  | .kWrFinish => none

/-- May this agent present this instruction (R212)? -/
def mayPresent (agent : Agent) (i : Instr) : Bool :=
  presenter i == some agent

/-- Is the instruction an interrupt handler's on a machine whose handlers nest: what preemption does is not given (R211, 00_scope.md
R11; log entry 10)? -/
def nestedHandler (i : Instr) (s : State) : Bool :=
  match i with
  | .busDone _ => s.cfg.irqNesting
  | .trig => s.cfg.irqNesting
  | _ => false

/-- A decoded word of an agent: the agent must own it (R212). When the bus controller may deliver a completion (10_state.md R33)
is its own contract, which the block assumes and has no means to check: a completion that is presented is handled (log entry
9). -/
def takeWord (agent : Agent) (s : State) : Decoded → Next
  | .refuse r => .refuse (refusalOf r)
  | .instr i =>
    if !mayPresent agent i then .refuse .contextViolation
    else if nestedHandler i s then .refuse .nestedHandlers
    else .run i s

/-- A word on the command port: the port belongs to FG (R212), whatever the word. -/
def onCommand (agent : Agent) (w : CommandWord) (s : State) : Next :=
  if agent = .fg then takeWord agent s (decodeCommand w) else .refuse .contextViolation

/-- A word on the event port: the port belongs to BC and TRG (R212), whatever the word. -/
def onEvent (agent : Agent) (w : EventWord) (s : State) : Next :=
  if agent = .bc ∨ agent = .trg then takeWord agent s (decodeEvent w) else .refuse .contextViolation

/-- An input other than a reset: it has a step only while HALT = 0 (R215). -/
def whileEnabled (s : State) (n : Next) : Next :=
  if s.halt then .stuck (.halted s.hcause) else n

/-- What the first presented input asks of the block. A halted block is stuck but for a reset (R215, R225). -/
def nextOf (s : State) : Next :=
  match s.inputs with
  | [] => whileEnabled s .wait
  | .reset _ :: rest => .reset { s with inputs := rest }
  | .command agent w :: rest => whileEnabled s (onCommand agent w { s with inputs := rest })
  | .event agent w :: rest => whileEnabled s (onEvent agent w { s with inputs := rest })

/-! ### Placing a word of the opcode table -/

/-- An input put first. -/
def present (i : Input) (s : State) : State :=
  { s with inputs := i :: s.inputs }

/-- A state in which a step is enabled (R215). -/
def notHalted (s : State) : State :=
  { s with halt := false, hcause := .none }

/-- A state whose start condition is in flight with this target in CONT: the next completion dispatches the target (40_bus_engine.md
R115). -/
def awaiting (k : Target) (s : State) : State :=
  { s with busy := true, phase := .command, cont := k, outst := some .start }

/-- A word of the opcode table placed where the next step reads it: a command from FG, an event from TRG or BC, a continuation identifier in CONT with the completion that dispatches it. Log entry 6. -/
def place (s : State) : PortWord → State
  | .command w => present (.command .fg w) (notHalted s)
  | .event w =>
    if decodeEvent w = .instr .trig then present (.event .trg w) (notHalted s)
    else present (.event .bc w) (notHalted s)
  | .target c =>
    present (.event .bc (encEvent 0x1 0)) (awaiting ((Target.ofCode c).getD .none) (notHalted s))

end Sys2Proof.Machine
end

