-- ==== Sys2Proof/Machine/Step.lean ====
section
/-! DEFINITION. One step of the machine (00_scope.md R5): the next input of the schedule, taken whole. -/

namespace Sys2Proof.Machine

/-- One step: wait, reset, run the presented instruction, or stop. -/
def step (s : State) : Host.Outcome State Fault Refusal :=
  match nextOf s with
  | .wait => .next { s with resp := none }
  | .reset t => .next (applyReset t)
  | .stuck r => .fault r
  | .refuse r => .refused r
  | .run i t => exec i t

/-- A word of the opcode table placed where `step` reads its next instruction (log entry 6). -/
def State.withFetchWord (s : State) (nbits w : Nat) : State :=
  place s (tableWord nbits w)

end Sys2Proof.Machine
end

