-- ==== Sys2Proof/Safety.lean ====
section
/-! DEFINITION. The terms in which statements speak of runs: the invariants of the state, deliveries one after another, and the
foreground's contract. -/

namespace Sys2Proof

open Machine

/-- The engine invariant (10_state.md R25). -/
structure EngineInvariant (s : State) : Prop where
  idle_iff : s.busy = false ↔ s.phase = .idle
  cont_none : s.busy = false → s.cont = .none

/-- The operation outstanding at the bus controller is the one the phase waits for (10_state.md R21, R31, 40_bus_engine.md R105,
R106), and the last one of the history. -/
structure PortInvariant (s : State) : Prop where
  idle : s.phase = .idle → s.outst = none
  command : s.phase = .command → s.outst = some .start
  sending : s.phase = .sending → ∃ b, s.outst = some (.tx b)
  receiving : s.phase = .receiving → s.outst = some (.rx (ackFor s.brem))
  last : s.outst ≠ none → s.bh.getLast? = s.outst

/-- The bytes still to transfer lie in the range that was checked at the request (20_memory.md R53, 40_bus_engine.md R112,
R113). -/
structure CursorInvariant (s : State) : Prop where
  sending : s.phase = .sending → 0 < s.brem.toNat → sendOk s.bptr s.brem = true
  receiving_pos : s.phase = .receiving → 0 < s.brem.toNat
  receiving : s.phase = .receiving → recvOk s.bptr s.brem = true

/-- The machine's invariant: the engine's, the port's and the cursor's, HCAUSE names a cause exactly while halted (10_state.md
R28), and the memory has its canonical form. -/
structure Invariant (s : State) : Prop where
  engine : EngineInvariant s
  port : PortInvariant s
  cursor : CursorInvariant s
  halt_iff : s.halt = true ↔ s.hcause ≠ .none
  memory : Memory.wf s = true

/-- Completions delivered one after another, with nothing between them. -/
def completions : List Byte → State → Host.Outcome State Fault Refusal
  | [], s => .next s
  | d :: ds, s =>
    match exec (.busDone d) s with
    | .next t => completions ds t
    | .fault r => .fault r
    | .refused r => .refused r

/-- A request, then completions with nothing between them. -/
def chain (i : Instr) (ds : List Byte) (s : State) : Host.Outcome State Fault Refusal :=
  match exec i s with
  | .next t => completions ds t
  | .fault r => .fault r
  | .refused r => .refused r

/-- Commands executed one after another, with nothing between them. -/
def execAll : List Instr → State → Host.Outcome State Fault Refusal
  | [], s => .next s
  | i :: is, s =>
    match exec i s with
    | .next t => execAll is t
    | .fault r => .fault r
    | .refused r => .refused r

/-- What VALIDATE must leave at each address, given the bytes it finds (41_continuations.md R152, R158). -/
def repaired (c : Config) (found : Addr → Byte) (a : Addr) : Byte :=
  if a = 0x07#8 then c.ctrlValue
  else if h : a.toNat < 7 then (if invalidBit (found 0x00#8) then c.defaultTime[a.toNat] else found a)
  else found a

/-- Does either correction apply to the bytes VALIDATE finds (41_continuations.md R152)? -/
def correctionNeeded (c : Config) (found : Addr → Byte) : Bool :=
  invalidBit (found 0x00#8) || found 0x07#8 != c.ctrlValue

/-- The fault the spec gives an instruction in a state (60_exceptions.md R214). -/
def faultOf : Instr → State → Cause
  | .send a n _, s => if n ≠ 0#8 ∧ s.busy = false ∧ 256 < a.toNat + n.toNat then .bufferRange else .none
  | .recv a n _, s =>
    if n ≠ 0#8 ∧ s.busy = false ∧ (256 < a.toNat + n.toNat ∨ (8 < a.toNat + n.toNat ∧ a.toNat < 0x0B)) then .bufferRange
    else .none
  | .memwr a _, _ => if a.toNat ≤ 0x0A then .protectedWrite else .none
  | .busDone _, s => if s.busy then .none else .spuriousCompletion
  | .start _, _ => .none
  | .stop, _ => .none
  | .rdrtc, _ => .none
  | .wrrtc, _ => .none
  | .flgclr, _ => .none
  | .status, _ => .none
  | .memrd _, _ => .none
  | .trig, _ => .none
  | .kNone, _ => .none
  | .kRdAddr, _ => .none
  | .kRdRestart, _ => .none
  | .kRdDevread, _ => .none
  | .kRdRecv, _ => .none
  | .kRdFinish, _ => .none
  | .kWrAddr, _ => .none
  | .kWrData, _ => .none
  | .kWrFinish, _ => .none

/-- A step's completion has run (40_bus_engine.md R115) up to its dispatch: the state the captured target is dispatched in. BPTR
and BREM hold `p` and `r`, which no rule constrains, and `m` draws have been made. -/
def afterCompletion (s : State) (p : Addr) (r : Count) (m : Nat) : State :=
  { s with cont := .none, phase := .idle, busy := false, bptr := p, brem := r, draws := m, outst := none }

/-- The bus controller keeps its contract at this step (10_state.md R33, 60_exceptions.md R210): it delivers a completion only
while an operation is outstanding, or at any time if BC_SPURIOUS. -/
def ContractKept (s : State) : Prop :=
  ∀ w rest d, s.inputs = .event .bc w :: rest → decodeEvent w = .instr (.busDone d) →
    s.outst ≠ none ∨ s.cfg.bcSpurious = true

/-- Where the foreground is in its loop (42_handoff.md R192). -/
inductive ForegroundAt where
  | sample
  | readHours
  | readMinutes
  | clear
  deriving DecidableEq, Repr

/-- The command the foreground's contract issues there (42_handoff.md R192). -/
def ForegroundAt.command : ForegroundAt → Instr
  | .sample => .status
  | .readHours => .memrd 0x02
  | .readMinutes => .memrd 0x01
  | .clear => .flgclr

/-- Where the foreground goes on the response it got: from the sample to the reads where FLAG, bit 3, is set (42_handoff.md
R192). -/
def ForegroundAt.after : ForegroundAt → Option Response → ForegroundAt
  | .sample, some (.word w) => if w.getLsbD 3 then .readHours else .sample
  | .sample, _ => .sample
  | .readHours, _ => .readMinutes
  | .readMinutes, _ => .clear
  | .clear, _ => .sample

end Sys2Proof
end

