-- ==== Sys2Proof/Certificates/Slice0/Obligations.lean ====
section
/-! DEFINITION. The statements for the provers, from the numbered rules of the spec. -/

open Sys2Proof Sys2Proof.Machine

/-! ### Encoding -/

/-- Decoding an encoded instruction gives it back, with every operand at every value (30_encoding.md R73, R78, R80). -/
def Obligations.DecodeOfEncodeIsTheInstruction : Prop :=
  ∀ i : Instr, decode (encode i) = .instr i

/-- Every word has at most one meaning: a word that decodes is the encoding of what it decodes to (30_encoding.md R74, R85). -/
def Obligations.EncodeOfDecodeIsTheWord : Prop :=
  ∀ (w : PortWord) (i : Instr), decode w = .instr i → encode i = w

/-- The example words of 30_encoding.md R75. -/
def Obligations.ExampleWordsDecode : Prop :=
  decodeCommand 0x000011#24 = .instr (.start .rdAddr) ∧
  decodeCommand 0x080222#24 = .instr (.send 0x08#8 2#8 .rdRestart) ∧
  decodeCommand 0x000853#24 = .instr (.recv 0x00#8 8#8 .rdFinish) ∧
  decodeCommand 0x20A50A#24 = .instr (.memwr 0x20#8 0xA5#8) ∧
  decodeCommand 0x020009#24 = .instr (.memrd 0x02#8)

/-! ### What a step runs, and what it refuses -/

/-- A command word of FG that decodes is run: `step` is `exec` of it, the word consumed (00_scope.md R5, 30_encoding.md R74). -/
def Obligations.StepRunsThePresentedCommand : Prop :=
  ∀ (s : State) (w : CommandWord) (rest : List Input) (i : Instr),
    s.halt = false → s.inputs = .command .fg w :: rest → decodeCommand w = .instr i →
    step s = exec i { s with inputs := rest }

/-- An event word of its own agent is run: BUS_DONE of BC, TRIG of TRG (60_exceptions.md R210, R212). That a completion is run
whether or not one is owed is the model's choice, log entry 9. IRQ_NESTING is at the spec's value (00_scope.md R11). -/
def Obligations.StepRunsThePresentedEvent : Prop :=
  (∀ (s : State) (w : EventWord) (rest : List Input) (d : Byte),
    s.halt = false → s.cfg.irqNesting = false → s.inputs = .event .bc w :: rest → decodeEvent w = .instr (.busDone d) →
    step s = exec (.busDone d) { s with inputs := rest }) ∧
  (∀ (s : State) (w : EventWord) (rest : List Input),
    s.halt = false → s.cfg.irqNesting = false → s.inputs = .event .trg w :: rest → decodeEvent w = .instr .trig →
    step s = exec .trig { s with inputs := rest })

/-- With nothing presented the block waits: no state changes, and the response of the last command is gone. The model's choice
(log entry 5) for 70_reset_and_hazards.md R240's "the block is idle and waits for a command or an event". -/
def Obligations.BlockWaitsForAnInput : Prop :=
  ∀ s : State, s.halt = false → s.inputs = [] → step s = .next { s with resp := none }

/-- 30_encoding.md R81. -/
def Obligations.ReservedOpcodeIsRefused : Prop :=
  ∀ (s : State) (w : CommandWord) (rest : List Input),
    s.halt = false → s.inputs = .command .fg w :: rest → (w.op = 0x0#4 ∨ 0xB ≤ w.op.toNat) →
    step s = .refused .reservedOpcode

/-- 30_encoding.md R82: the reserved-zero fields of each command. -/
def Obligations.ReservedFieldIsRefused : Prop :=
  ∀ (s : State) (w : CommandWord) (rest : List Input),
    s.halt = false → s.inputs = .command .fg w :: rest →
    ((w.op = 0x1#4 ∧ (w.a ≠ 0#8 ∨ w.n ≠ 0#8)) ∨
     (0x4 ≤ w.op.toNat ∧ w.op.toNat ≤ 0x8 ∧ (w.a ≠ 0#8 ∨ w.n ≠ 0#8 ∨ w.k ≠ 0#4)) ∨
     (w.op = 0x9#4 ∧ (w.n ≠ 0#8 ∨ w.k ≠ 0#4)) ∨
     (w.op = 0xA#4 ∧ w.k ≠ 0#4)) →
    step s = .refused .reservedField

/-- 30_encoding.md R83, for a word of either agent of the event port. That a TRIG word with a non-zero D which BC presents is
named by its field, not by its agent (60_exceptions.md R212), is the model's choice, log entry 7. -/
def Obligations.ReservedEventIsRefused : Prop :=
  ∀ (s : State) (agent : Agent) (w : EventWord) (rest : List Input),
    s.halt = false → (agent = .bc ∨ agent = .trg) → s.inputs = .event agent w :: rest →
    ((w.ev = 0x0#4 ∨ 0x3 ≤ w.ev.toNat) → step s = .refused .reservedEvent) ∧
    (w.ev = 0x2#4 → w.d ≠ 0#8 → step s = .refused .reservedField)

/-- 30_encoding.md R84, in the order of R74: a START word's reserved-zero fields are checked first. -/
def Obligations.ReservedContinuationIsRefused : Prop :=
  ∀ (s : State) (w : CommandWord) (rest : List Input),
    s.halt = false → s.inputs = .command .fg w :: rest → 0x9 ≤ w.k.toNat →
    ((w.op = 0x1#4 ∧ w.a = 0#8 ∧ w.n = 0#8) ∨ w.op = 0x2#4 ∨ w.op = 0x3#4) →
    step s = .refused .reservedContinuation

/-- 60_exceptions.md R212: a word presented by an agent that does not own it. That a command word of a wrong agent is named by
its agent where the word is reserved too (30_encoding.md R81 to R84) is the model's choice, log entry 7. -/
def Obligations.WrongAgentIsRefused : Prop :=
  (∀ (s : State) (agent : Agent) (w : CommandWord) (rest : List Input),
    s.halt = false → agent ≠ .fg → s.inputs = .command agent w :: rest → step s = .refused .contextViolation) ∧
  (∀ (s : State) (agent : Agent) (w : EventWord) (rest : List Input) (i : Instr),
    s.halt = false → s.inputs = .event agent w :: rest → decodeEvent w = .instr i →
    ((∃ d, i = .busDone d) ∧ agent ≠ .bc ∨ i = .trig ∧ agent ≠ .trg) → step s = .refused .contextViolation)

/-! ### The Bus Engine's requests -/

/-- START (40_bus_engine.md R100): accepted in the idle engine, rejected with nothing written in the busy one. -/
def Obligations.StartRequestsAStartCondition : Prop :=
  ∀ (s : State) (k : Target), s.halt = false →
    (s.busy = false →
      exec (.start k) s = .next
        { s with
          busy := true, phase := .command, cont := k, outst := some .start, bh := s.bh ++ [.start],
          resp := some (.bit 1#1) }) ∧
    (s.busy = true → exec (.start k) s = .next { s with resp := some (.bit 0#1) })

/-- SEND (40_bus_engine.md R104): the checks in their order, and the first byte handed over at the request. -/
def Obligations.SendHandsOverItsFirstByte : Prop :=
  ∀ (s : State) (a : Addr) (n : Count) (k : Target), s.halt = false →
    (n = 0#8 → exec (.send a n k) s = .next { s with resp := some (.bit 1#1) }) ∧
    (n ≠ 0#8 → s.busy = true → exec (.send a n k) s = .next { s with resp := some (.bit 0#1) }) ∧
    (n ≠ 0#8 → s.busy = false → 256 < a.toNat + n.toNat →
      exec (.send a n k) s = .next { s with halt := true, hcause := .bufferRange, resp := none }) ∧
    (n ≠ 0#8 → s.busy = false → a.toNat + n.toNat ≤ 256 →
      exec (.send a n k) s = .next
        { s with
          busy := true, phase := .sending, cont := k, bptr := a + 1#8, brem := n - 1#8,
          outst := some (.tx (memRead s a)), bh := s.bh ++ [.tx (memRead s a)], resp := some (.bit 1#1) })

/-- RECV (40_bus_engine.md R108): the checks in their order, and the first byte armed, acknowledged if more than one is to
come. -/
def Obligations.RecvArmsItsFirstByte : Prop :=
  ∀ (s : State) (a : Addr) (n : Count) (k : Target), s.halt = false →
    (n = 0#8 → exec (.recv a n k) s = .next { s with resp := some (.bit 1#1) }) ∧
    (n ≠ 0#8 → s.busy = true → exec (.recv a n k) s = .next { s with resp := some (.bit 0#1) }) ∧
    (n ≠ 0#8 → s.busy = false → (256 < a.toNat + n.toNat ∨ (8 < a.toNat + n.toNat ∧ a.toNat < 0x0B)) →
      exec (.recv a n k) s = .next { s with halt := true, hcause := .bufferRange, resp := none }) ∧
    (n ≠ 0#8 → s.busy = false → a.toNat + n.toNat ≤ 256 → (a.toNat + n.toNat ≤ 8 ∨ 0x0B ≤ a.toNat) →
      exec (.recv a n k) s = .next
        { s with
          busy := true, phase := .receiving, cont := k, bptr := a, brem := n,
          outst := some (.rx (decide (1 < n.toNat))), bh := s.bh ++ [.rx (decide (1 < n.toNat))],
          resp := some (.bit 1#1) })

/-- STOP (40_bus_engine.md R110): `P` issued in the idle engine, no register written, no completion to come; rejected with
nothing written in the busy one. -/
def Obligations.StopRequestsAStopCondition : Prop :=
  ∀ s : State, s.halt = false →
    (s.busy = false → exec .stop s = .next { s with bh := s.bh ++ [.stop], resp := some (.bit 1#1) }) ∧
    (s.busy = true → exec .stop s = .next { s with resp := some (.bit 0#1) })

/-- Mutual exclusion (40_bus_engine.md R102): START, SEND and RECV of a count that is not 0 are accepted only when BUSY = 0 and
then set it; while BUSY = 1 they answer 0 and change no state. -/
def Obligations.OneEngineStepAtATime : Prop :=
  ∀ (s t : State) (i : Instr) (k : Target) (a : Addr) (n : Count),
    (i = .start k ∨ (n ≠ 0#8 ∧ (i = .send a n k ∨ i = .recv a n k))) → exec i s = .next t →
    (t.resp = some (.bit 1#1) → s.busy = false ∧ t.busy = true) ∧
    (s.busy = true → t = { s with resp := some (.bit 0#1) })

/-- Zero count (40_bus_engine.md R103): accepted, nothing changed, whatever BUSY is. -/
def Obligations.ZeroCountChangesNothing : Prop :=
  ∀ (s : State) (a : Addr) (k : Target), s.halt = false →
    exec (.send a 0#8 k) s = .next { s with resp := some (.bit 1#1) } ∧
    exec (.recv a 0#8 k) s = .next { s with resp := some (.bit 1#1) }

/-- RDRTC and WRRTC (41_continuations.md R142, R143): START of the read chain's and of the write chain's first target. -/
def Obligations.ChainsBeginWithAStart : Prop :=
  ∀ s : State, s.halt = false →
    (s.busy = false →
      exec .rdrtc s = .next
        { s with
          busy := true, phase := .command, cont := .rdAddr, outst := some .start, bh := s.bh ++ [.start],
          resp := some (.bit 1#1) } ∧
      exec .wrrtc s = .next
        { s with
          busy := true, phase := .command, cont := .wrAddr, outst := some .start, bh := s.bh ++ [.start],
          resp := some (.bit 1#1) }) ∧
    (s.busy = true →
      exec .rdrtc s = .next { s with resp := some (.bit 0#1) } ∧
      exec .wrrtc s = .next { s with resp := some (.bit 0#1) })

/-! ### BUS_DONE -/

/-- A completion that meets BUSY = 0 halts the block and writes nothing else (40_bus_engine.md R111). -/
def Obligations.SpuriousCompletionHalts : Prop :=
  ∀ (s : State) (d : Byte), s.halt = false → s.busy = false →
    exec (.busDone d) s = .next { s with halt := true, hcause := .spuriousCompletion, resp := none }

/-- The Sending arm (40_bus_engine.md R112): the next byte, read now, is handed over while bytes remain; else completion, in
which BPTR and BREM come to hold some values (R115). -/
def Obligations.SendingArmHandsOverTheNextByte : Prop :=
  ∀ (s : State) (d : Byte), s.halt = false → s.busy = true → s.phase = .sending →
    (s.brem ≠ 0#8 →
      exec (.busDone d) s = .next
        { s with
          bptr := s.bptr + 1#8, brem := s.brem - 1#8, outst := some (.tx (memRead s s.bptr)),
          bh := s.bh ++ [.tx (memRead s s.bptr)], resp := none }) ∧
    (s.brem = 0#8 → ∃ p r m, exec (.busDone d) s = exec s.cont.instr (afterCompletion s p r m))

/-- The Receiving arm (40_bus_engine.md R113, R106): the byte is stored at BPTR; then the next receive is armed, acknowledged
unless it is the last, or the step completes. BREM = 0 and a BPTR in the ROM are states no run reaches (log entry 4). -/
def Obligations.ReceivingArmStoresTheByte : Prop :=
  ∀ (s : State) (d : Byte), s.halt = false → s.busy = true → s.phase = .receiving → s.brem ≠ 0#8 →
    (s.brem ≠ 1#8 →
      exec (.busDone d) s = .next
        { memWrite s s.bptr d with
          bptr := s.bptr + 1#8, brem := s.brem - 1#8, outst := some (.rx (decide (2 < s.brem.toNat))),
          bh := s.bh ++ [.rx (decide (2 < s.brem.toNat))], resp := none }) ∧
    (s.brem = 1#8 → ∃ p r m, exec (.busDone d) s = exec s.cont.instr (afterCompletion (memWrite s s.bptr d) p r m)) ∧
    (isRom s.bptr = false → memRead (memWrite s s.bptr d) s.bptr = d) ∧
    (∀ a, a ≠ s.bptr → memRead (memWrite s s.bptr d) a = memRead s a)

/-- The Command arm, and Idle with BUSY = 1 treated as Command (40_bus_engine.md R114): completion at once, in which CONT is
captured, the engine cleared, then the captured target dispatched (R115). BPTR and BREM come to hold some values. -/
def Obligations.CommandArmDispatchesAtOnce : Prop :=
  ∀ (s : State) (d : Byte), s.halt = false → s.busy = true → (s.phase = .command ∨ s.phase = .idle) →
    ∃ p r m, exec (.busDone d) s = exec s.cont.instr (afterCompletion s p r m)

/-- The data byte of a completion is ignored in every phase but Receiving (40_bus_engine.md R111). -/
def Obligations.DataByteMattersOnlyInReceiving : Prop :=
  ∀ (s : State) (d e : Byte), s.phase ≠ .receiving → exec (.busDone d) s = exec (.busDone e) s

/-- A byte the host writes into the buffer of a SEND in flight, at the next byte to go, is the byte that goes (20_memory.md
R63). -/
def Obligations.SendReadsItsBufferLate : Prop :=
  ∀ (s : State) (v d : Byte), s.halt = false → s.busy = true → s.phase = .sending → s.brem ≠ 0#8 → 0x0B ≤ s.bptr.toNat →
    ∃ t u, exec (.memwr s.bptr v) s = .next t ∧ exec (.busDone d) t = .next u ∧ u.bh = s.bh ++ [.tx v]

/-- A SEND step of N bytes (40_bus_engine.md R105): after N - 1 completions it has issued exactly the N bytes of its buffer, in
order, and dispatched nothing; the next completion dispatches its target. -/
def Obligations.SendStepTransmitsItsBuffer : Prop :=
  ∀ (s : State) (a : Addr) (n : Count) (k : Target) (ds : List Byte),
    s.halt = false → s.busy = false → a.toNat + n.toNat ≤ 256 → ds.length + 1 = n.toNat →
    ∃ t, chain (.send a n k) ds s = .next t ∧ t.busy = true ∧ t.phase = .sending ∧ t.cont = k ∧ t.flag = s.flag ∧
      t.halt = false ∧
      t.bh = s.bh ++ (List.range n.toNat).map (fun i => .tx (memRead s (a + BitVec.ofNat 8 i))) ∧
      (∀ b, memRead t b = memRead s b) ∧
      ∀ d, ∃ p r m, exec (.busDone d) t = exec k.instr (afterCompletion t p r m)

/-- A RECV step of N bytes (40_bus_engine.md R109): N - 1 receives with acknowledge and one without; the i-th completion stores
its byte at the i-th address of the buffer and no other byte changes; the N-th stores the last byte and dispatches the
target. -/
def Obligations.RecvStepStoresItsBytes : Prop :=
  ∀ (s : State) (a : Addr) (n : Count) (k : Target) (ds : List Byte) (last : Byte),
    s.halt = false → s.busy = false → a.toNat + n.toNat ≤ 256 → (a.toNat + n.toNat ≤ 8 ∨ 0x0B ≤ a.toNat) →
    ds.length + 1 = n.toNat →
    ∃ t u, chain (.recv a n k) ds s = .next t ∧ t.busy = true ∧ t.phase = .receiving ∧ t.cont = k ∧ t.halt = false ∧
      t.bh = s.bh ++ List.replicate ds.length (.rx true) ++ [.rx false] ∧
      (∃ p r m, exec (.busDone last) t = exec k.instr (afterCompletion u p r m)) ∧
      u.bh = t.bh ∧ u.flag = s.flag ∧
      (∀ i (h : i < ds.length), memRead u (a + BitVec.ofNat 8 i) = ds[i]) ∧
      memRead u (a + BitVec.ofNat 8 ds.length) = last ∧
      (∀ b : Addr, (b.toNat < a.toNat ∨ a.toNat + n.toNat ≤ b.toNat) → memRead u b = memRead s b)

/-! ### The continuation targets, in the idle engine that dispatches them -/

/-- NONE (41_continuations.md R141): nothing is written; there is no response. -/
def Obligations.NoneTargetDoesNothing : Prop :=
  ∀ s : State, s.halt = false → exec .kNone s = .next { s with resp := none }

/-- RD_ADDR and WR_ADDR (41_continuations.md R144, R149): SEND of CMDW, whose first byte is DEV_WADDR. -/
def Obligations.AddressTargetsSendTheWriteAddress : Prop :=
  ∀ s : State, s.halt = false → s.busy = false → Memory.wf s = true →
    exec .kRdAddr s = .next
      { s with
        busy := true, phase := .sending, cont := .rdRestart, bptr := 0x09#8, brem := 1#8,
        outst := some (.tx s.cfg.devWaddr), bh := s.bh ++ [.tx s.cfg.devWaddr], resp := none } ∧
    exec .kWrAddr s = .next
      { s with
        busy := true, phase := .sending, cont := .wrData, bptr := 0x09#8, brem := 1#8,
        outst := some (.tx s.cfg.devWaddr), bh := s.bh ++ [.tx s.cfg.devWaddr], resp := none }

/-- RD_RESTART (41_continuations.md R145): a repeated start, with no stop before it. -/
def Obligations.RestartTargetStartsAgain : Prop :=
  ∀ s : State, s.halt = false → s.busy = false →
    exec .kRdRestart s = .next
      { s with
        busy := true, phase := .command, cont := .rdDevread, outst := some .start, bh := s.bh ++ [.start], resp := none }

/-- RD_DEVREAD (41_continuations.md R146): SEND of CMDR, which is DEV_RADDR. BPTR is the address after it. -/
def Obligations.DevreadTargetSendsTheReadAddress : Prop :=
  ∀ s : State, s.halt = false → s.busy = false → Memory.wf s = true →
    exec .kRdDevread s = .next
      { s with
        busy := true, phase := .sending, cont := .rdRecv, bptr := 0x0B#8, brem := 0#8,
        outst := some (.tx s.cfg.devRaddr), bh := s.bh ++ [.tx s.cfg.devRaddr], resp := none }

/-- RD_RECV (41_continuations.md R147): RECV of the register block. -/
def Obligations.RecvTargetArmsTheRegisterBlock : Prop :=
  ∀ s : State, s.halt = false → s.busy = false →
    exec .kRdRecv s = .next
      { s with
        busy := true, phase := .receiving, cont := .rdFinish, bptr := 0x00#8, brem := 8#8,
        outst := some (.rx true), bh := s.bh ++ [.rx true], resp := none }

/-- RD_FINISH (41_continuations.md R148): STOP, then VALIDATE (R152): the block repaired, a write-back started if a correction
applied, FLAG set. Everything else is as before. -/
def Obligations.FinishTargetStopsAndValidates : Prop :=
  ∀ s : State, s.halt = false → s.busy = false →
    ∃ mem,
      (∀ a, memRead { s with mem := mem } a = repaired s.cfg (memRead s) a) ∧
      (correctionNeeded s.cfg (memRead s) = false →
        exec .kRdFinish s = .next { s with mem := mem, bh := s.bh ++ [.stop], flag := true, resp := none }) ∧
      (correctionNeeded s.cfg (memRead s) = true →
        exec .kRdFinish s = .next
          { s with
            mem := mem, bh := s.bh ++ [.stop, .start], busy := true, phase := .command, cont := .wrAddr,
            outst := some .start, flag := true, resp := none })

/-- What VALIDATE leaves (41_continuations.md R158): the received bytes where no correction applies; CTRL_VALUE after any
correction; DEFAULT_TIME after a seconds correction. -/
def Obligations.ValidateLeavesAValidBlock : Prop :=
  ∀ s t : State, s.busy = false → exec .kRdFinish s = .next t →
    (invalidBit (memRead s 0x00#8) = false → memRead s 0x07#8 = s.cfg.ctrlValue →
      (∀ a, memRead t a = memRead s a) ∧ t.busy = false) ∧
    ((invalidBit (memRead s 0x00#8) = true ∨ memRead s 0x07#8 ≠ s.cfg.ctrlValue) →
      memRead t 0x07#8 = s.cfg.ctrlValue ∧ t.busy = true ∧ t.cont = .wrAddr) ∧
    (invalidBit (memRead s 0x00#8) = true →
      ∀ i (h : i < 7), memRead t (BitVec.ofNat 8 i) = s.cfg.defaultTime[i]) ∧
    (invalidBit (memRead s 0x00#8) = false → ∀ i, i < 7 → memRead t (BitVec.ofNat 8 i) = memRead s (BitVec.ofNat 8 i)) ∧
    (∀ a : Addr, 8 ≤ a.toNat → memRead t a = memRead s a)

/-- WR_DATA (41_continuations.md R150): SEND of the register block, with no start condition before it. -/
def Obligations.DataTargetSendsTheRegisterBlock : Prop :=
  ∀ s : State, s.halt = false → s.busy = false →
    exec .kWrData s = .next
      { s with
        busy := true, phase := .sending, cont := .wrFinish, bptr := 0x01#8, brem := 7#8,
        outst := some (.tx (memRead s 0x00#8)), bh := s.bh ++ [.tx (memRead s 0x00#8)], resp := none }

/-- WR_FINISH (41_continuations.md R151): STOP; FLAG as it was. -/
def Obligations.WriteFinishTargetStops : Prop :=
  ∀ s : State, s.halt = false → s.busy = false →
    exec .kWrFinish s = .next { s with bh := s.bh ++ [.stop], resp := none }

/-! ### The chains -/

/-- The read chain (41_continuations.md R154, R152): RDRTC and its 13 completions issue exactly the operations of R154; then
the block is the received one, repaired, the write chain has begun if a correction applied, and FLAG is set; before the last
completion BUSY = 1 throughout (R156). -/
def Obligations.ReadChainIssuesItsOperations : Prop :=
  ∀ (s : State) (d1 d2 d3 d4 d5 r0 r1 r2 r3 r4 r5 r6 r7 : Byte),
    s.halt = false → s.busy = false → Memory.wf s = true →
    ∃ t, chain .rdrtc [d1, d2, d3, d4, d5, r0, r1, r2, r3, r4, r5, r6, r7] s = .next t ∧
      t.bh = s.bh ++
        [.start, .tx s.cfg.devWaddr, .tx 0x00#8, .start, .tx s.cfg.devRaddr, .rx true, .rx true, .rx true, .rx true,
         .rx true, .rx true, .rx true, .rx false, .stop] ++
        (if invalidBit r0 = true ∨ r7 ≠ s.cfg.ctrlValue then [.start] else []) ∧
      t.flag = true ∧ t.halt = false ∧
      (∀ i (h : i < 8), memRead t (BitVec.ofNat 8 i) =
        if i = 7 then s.cfg.ctrlValue
        else if invalidBit r0 then s.cfg.defaultTime.toList.getD i 0#8
        else [r0, r1, r2, r3, r4, r5, r6, r7][i]) ∧
      (∀ a : Addr, 8 ≤ a.toNat → memRead t a = memRead s a) ∧
      (t.busy = true ↔ (invalidBit r0 = true ∨ r7 ≠ s.cfg.ctrlValue)) ∧
      (t.busy = true → t.phase = .command ∧ t.cont = .wrAddr) ∧
      (∀ n, n < 13 →
        ∃ u, chain .rdrtc ([d1, d2, d3, d4, d5, r0, r1, r2, r3, r4, r5, r6, r7].take n) s = .next u ∧ u.busy = true)

/-- The write chain (41_continuations.md R155, R157): WRRTC and its 11 completions issue exactly the operations of R155; no
byte of memory changes, FLAG is not written and the engine is idle; before the last completion BUSY = 1 throughout (R156). -/
def Obligations.WriteChainIssuesItsOperations : Prop :=
  ∀ (s : State) (ds : List Byte), ds.length = 11 → s.halt = false → s.busy = false → Memory.wf s = true →
    ∃ t, chain .wrrtc ds s = .next t ∧
      t.bh = s.bh ++ [.start, .tx s.cfg.devWaddr, .tx 0x00#8] ++
        (List.range 8).map (fun i => .tx (memRead s (BitVec.ofNat 8 i))) ++ [.stop] ∧
      t.busy = false ∧ t.phase = .idle ∧ t.cont = .none ∧ t.outst = none ∧ t.flag = s.flag ∧ t.halt = false ∧
      (∀ a, memRead t a = memRead s a) ∧
      (∀ n, n < 11 → ∃ u, chain .wrrtc (ds.take n) s = .next u ∧ u.busy = true)

/-! ### The handoff and the host -/

/-- FLGCLR (42_handoff.md R180). That the response 1 is one bit wide is the model's choice, log entry 8. -/
def Obligations.FlgclrClearsTheFlag : Prop :=
  ∀ s : State, s.halt = false → exec .flgclr s = .next { s with flag := false, resp := some (.bit 1#1) }

/-- STATUS (42_handoff.md R182): the status word of 10_state.md R36, with no side effect; in it PHASE and CONT read as the codes
of R21 and 30_encoding.md R80. -/
def Obligations.StatusReadsTheStatusWord : Prop :=
  ∀ s : State, s.halt = false →
    ∃ w : BitVec 16, exec .status s = .next { s with resp := some (.word w) } ∧
      w.getLsbD 0 = s.busy ∧ w.getLsbD 3 = s.flag ∧ w.extractLsb' 8 8 = 0#8 ∧
      (s.phase = .idle → w.extractLsb' 1 2 = 0b00#2) ∧
      (s.phase = .command → w.extractLsb' 1 2 = 0b01#2) ∧
      (s.phase = .sending → w.extractLsb' 1 2 = 0b10#2) ∧
      (s.phase = .receiving → w.extractLsb' 1 2 = 0b11#2) ∧
      (s.cont = .none → w.extractLsb' 4 4 = 0x0#4) ∧
      (s.cont = .rdAddr → w.extractLsb' 4 4 = 0x1#4) ∧
      (s.cont = .rdRestart → w.extractLsb' 4 4 = 0x2#4) ∧
      (s.cont = .rdDevread → w.extractLsb' 4 4 = 0x3#4) ∧
      (s.cont = .rdRecv → w.extractLsb' 4 4 = 0x4#4) ∧
      (s.cont = .rdFinish → w.extractLsb' 4 4 = 0x5#4) ∧
      (s.cont = .wrAddr → w.extractLsb' 4 4 = 0x6#4) ∧
      (s.cont = .wrData → w.extractLsb' 4 4 = 0x7#4) ∧
      (s.cont = .wrFinish → w.extractLsb' 4 4 = 0x8#4)

/-- MEMRD (42_handoff.md R183): the byte as it stands, with no side effect. -/
def Obligations.MemrdReadsTheByte : Prop :=
  ∀ (s : State) (a : Addr), s.halt = false → exec (.memrd a) s = .next { s with resp := some (.byte (memRead s a)) }

/-- MEMWR (42_handoff.md R184): a fault at 0x00 to 0x0A; elsewhere the byte is written and no other. That the response 1 is one
bit wide is the model's choice, log entry 8. -/
def Obligations.MemwrWritesHostMemory : Prop :=
  ∀ (s : State) (a : Addr) (v : Byte), s.halt = false →
    (a.toNat ≤ 0x0A → exec (.memwr a v) s = .next { s with halt := true, hcause := .protectedWrite, resp := none }) ∧
    (0x0A < a.toNat →
      ∃ mem, exec (.memwr a v) s = .next { s with mem := mem, resp := some (.bit 1#1) } ∧
        ∀ b, memRead { s with mem := mem } b = if b = a then v else memRead s b)

/-- TRIG (42_handoff.md R190): a read request, dropped while BUSY = 1; FLAG is written only where TRIGGER_SETS_FLAG. -/
def Obligations.TriggerRequestsARead : Prop :=
  ∀ s : State, s.halt = false →
    (s.busy = false →
      exec .trig s = .next
        { s with
          busy := true, phase := .command, cont := .rdAddr, outst := some .start, bh := s.bh ++ [.start],
          flag := s.flag || s.cfg.triggerSetsFlag, resp := none }) ∧
    (s.busy = true → exec .trig s = .next { s with flag := s.flag || s.cfg.triggerSetsFlag, resp := none })

/-- The pseudo-instruction MEMFILL (30_encoding.md R77): its expansion writes its bytes at rising addresses and no other. -/
def Obligations.MemfillWritesItsBytes : Prop :=
  ∀ (s : State) (a : Addr) (bytes : List Byte) (is : List Instr),
    s.halt = false → expandMemfill a bytes = some is →
    ∃ t, execAll is s = .next t ∧ t.halt = false ∧ t.busy = s.busy ∧ t.phase = s.phase ∧ t.cont = s.cont ∧
      t.bptr = s.bptr ∧ t.brem = s.brem ∧ t.outst = s.outst ∧ t.bh = s.bh ∧ t.flag = s.flag ∧
      (∀ i (h : i < bytes.length), memRead t (a + BitVec.ofNat 8 i) = bytes[i]) ∧
      (∀ b : Addr, (b.toNat < a.toNat ∨ a.toNat + bytes.length ≤ b.toNat) → memRead t b = memRead s b)

/-! ### Faults and reset -/

/-- The fault causes (60_exceptions.md R214), their codes, and exactly when each is raised: every instruction answers a next
state while HALT = 0; it enters a fault exactly where `faultOf` names one, and then that is all it writes (R215). -/
def Obligations.FaultsAreRaisedExactlyWhereStated : Prop :=
  (Cause.code .none = 0x0#4 ∧ Cause.code .spuriousCompletion = 0x1#4 ∧ Cause.code .bufferRange = 0x2#4 ∧
    Cause.code .protectedWrite = 0x3#4) ∧
  ∀ (i : Instr) (s : State), s.halt = false →
    ∃ t, exec i s = .next t ∧
      (faultOf i s = .none → t.halt = false ∧ t.hcause = s.hcause) ∧
      (faultOf i s ≠ .none → t = { s with halt := true, hcause := faultOf i s, resp := none })

/-- There is no trap return (60_exceptions.md R218): while HALT = 1 no instruction runs and no input but a reset has a step;
a reset leaves the halted state. -/
def Obligations.OnlyAResetLeavesTheHaltedState : Prop :=
  ∀ s : State, s.halt = true →
    (∀ i, exec i s = .fault (.halted s.hcause)) ∧
    ((∀ src rest, s.inputs ≠ .reset src :: rest) → step s = .fault (.halted s.hcause)) ∧
    (∀ src rest, s.inputs = .reset src :: rest → ∃ t, step s = .next t ∧ t.halt = false ∧ t.hcause = .none)

/-- Reset (70_reset_and_hazards.md R240, 60_exceptions.md R225): at any boundary, in any state, every piece of state takes its
value; what R240 calls unspecified is not constrained here. -/
def Obligations.ResetSetsEveryPieceOfState : Prop :=
  ∀ (s : State) (src : ResetSource) (rest : List Input), s.inputs = .reset src :: rest →
    ∃ t, step s = .next t ∧ t.busy = false ∧ t.phase = .idle ∧ t.cont = .none ∧ t.flag = false ∧ t.halt = false ∧
      t.hcause = .none ∧ t.outst = none ∧ t.bh = [] ∧ memRead t 0x08#8 = s.cfg.devWaddr ∧ memRead t 0x09#8 = 0x00#8 ∧
      memRead t 0x0A#8 = s.cfg.devRaddr ∧ t.cfg = s.cfg ∧ t.inputs = rest

/-- The state right after power-on (70_reset_and_hazards.md R240), its status word (42_handoff.md R182) and its ROM (20_memory.md
R50), and the two device addresses one bit apart (00_scope.md R7; by the model's construction, log entry 1). The free values
are not constrained. -/
def Obligations.PowerOnStateIsAsStated : Prop :=
  State.reset.busy = false ∧ State.reset.phase = .idle ∧ State.reset.cont = .none ∧ State.reset.flag = false ∧
  State.reset.halt = false ∧ State.reset.hcause = .none ∧ State.reset.outst = none ∧ State.reset.bh = [] ∧
  statusWord State.reset = 0x0000#16 ∧ memRead State.reset 0x08#8 = State.reset.cfg.devWaddr ∧
  memRead State.reset 0x09#8 = 0x00#8 ∧ memRead State.reset 0x0A#8 = State.reset.cfg.devRaddr ∧
  State.reset.cfg.wellFormed = true

/-! ### Frames -/

/-- Only RECV's stores, VALIDATE and MEMWR write the memory (20_memory.md R54), and each only where it stores. -/
def Obligations.OnlyStoresChangeTheMemory : Prop :=
  ∀ (i : Instr) (s t : State), exec i s = .next t →
    ((∀ a v, i ≠ .memwr a v) → (∀ d, i ≠ .busDone d) → i ≠ .kRdFinish → ∀ b, memRead t b = memRead s b) ∧
    (∀ a v, i = .memwr a v → ∀ b, b ≠ a → memRead t b = memRead s b) ∧
    (∀ d, i = .busDone d → ∀ b : Addr,
      ¬ (s.busy = true ∧ s.phase = .receiving ∧ b = s.bptr) →
      ¬ (s.busy = true ∧ s.cont = .rdFinish ∧ b.toNat < 8) → memRead t b = memRead s b) ∧
    (i = .kRdFinish → ∀ b : Addr, 8 ≤ b.toNat → memRead t b = memRead s b)

/-- No instruction writes the configuration, what memory came up with, or what the agents present; only BUS_DONE draws free
values. -/
def Obligations.NoInstructionWritesTheConfiguration : Prop :=
  ∀ (i : Instr) (s t : State), exec i s = .next t →
    t.cfg = s.cfg ∧ t.fill = s.fill ∧ t.inputs = s.inputs ∧ ((∀ d, i ≠ .busDone d) → t.draws = s.draws)

/-- While an engine step is in flight, no instruction but BUS_DONE changes the engine or issues anything (40_bus_engine.md R101,
R102, 41_continuations.md R156). -/
def Obligations.BusyEngineAnswersToBusDoneAlone : Prop :=
  ∀ (i : Instr) (s t : State), s.busy = true → (∀ d, i ≠ .busDone d) → exec i s = .next t →
    t.busy = true ∧ t.phase = s.phase ∧ t.cont = s.cont ∧ t.bptr = s.bptr ∧ t.brem = s.brem ∧ t.outst = s.outst ∧
      t.bh = s.bh

/-- The bus history is never rewritten: an instruction adds at most two operations at its end (10_state.md R34,
70_reset_and_hazards.md R251). -/
def Obligations.HistoryOnlyGrows : Prop :=
  ∀ (i : Instr) (s t : State), exec i s = .next t → ∃ ops, t.bh = s.bh ++ ops ∧ ops.length ≤ 2

/-- While TRIGGER_SETS_FLAG is false, FLAG rises only by VALIDATE: by RD_FINISH, or by the BUS_DONE that dispatches it (10_state.md
R27). -/
def Obligations.FlagRisesOnlyByValidate : Prop :=
  ∀ (i : Instr) (s t : State), s.cfg.triggerSetsFlag = false → s.flag = false → exec i s = .next t → t.flag = true →
    i = .kRdFinish ∨ ∃ d, i = .busDone d ∧ s.busy = true ∧ s.cont = .rdFinish

/-- FLAG is a level (42_handoff.md R193): set, it stays set over every step but FLGCLR's and a reset's. -/
def Obligations.FlagStaysSetUntilCleared : Prop :=
  ∀ s t : State, s.flag = true → step s = .next t →
    t.flag = true ∨ (∃ rest, s.inputs = .command .fg 0x000007#24 :: rest) ∨ (∃ src rest, s.inputs = .reset src :: rest)

/-- A hang (60_exceptions.md R224): while BUSY = 1, every step but a completion's and a reset's leaves the engine as it is and
issues nothing. -/
def Obligations.HungEngineStaysBusy : Prop :=
  ∀ s t : State, s.busy = true → step s = .next t → (∀ src rest, s.inputs ≠ .reset src :: rest) →
    (∀ ag w rest d, s.inputs = .event ag w :: rest → decodeEvent w ≠ .instr (.busDone d)) →
    t.busy = true ∧ t.phase = s.phase ∧ t.cont = s.cont ∧ t.bh = s.bh

/-- While the bus controller keeps its contract and BC_SPURIOUS is false, no completion is spurious (10_state.md R33,
93_implementation_defined.md I16): in a state that meets the machine's invariant no step enters that fault. -/
def Obligations.ContractRulesOutSpuriousCompletions : Prop :=
  ∀ s t : State, Invariant s → s.cfg.bcSpurious = false → ContractKept s → step s = .next t →
    t.hcause ≠ .spuriousCompletion

/-! ### Invariants -/

/-- The engine invariant holds at reset and every step keeps it (10_state.md R25). -/
def Obligations.EngineInvariantIsInductive : Prop :=
  EngineInvariant State.reset ∧ ∀ s t : State, EngineInvariant s → step s = .next t → EngineInvariant t

/-- The machine's invariant holds at reset. -/
def Obligations.InvariantHoldsAtReset : Prop :=
  Invariant State.reset

/-- Every step keeps the machine's invariant. -/
def Obligations.EveryStepKeepsTheInvariant : Prop :=
  ∀ s t : State, Invariant s → step s = .next t → Invariant t

/-- Every step keeps the memory's canonical form. -/
def Obligations.EveryStepKeepsTheMemoryForm : Prop :=
  ∀ s t : State, Memory.wf s = true → step s = .next t → Memory.wf t = true

/-- CMDW and CMDR hold their values at all times (20_memory.md R52), and the configuration never changes. -/
def Obligations.RomNeverChanges : Prop :=
  ∀ s t : State, Memory.wf s = true → step s = .next t →
    t.cfg = s.cfg ∧ memRead t 0x08#8 = s.cfg.devWaddr ∧ memRead t 0x09#8 = 0x00#8 ∧ memRead t 0x0A#8 = s.cfg.devRaddr
end

