-- ==== Sys2Proof/Laws/Decode.lean ====
section
/-! SUPPORT. The fields of an encoded word, and the codes of the targets. -/

namespace Sys2Proof

@[simp] theorem enc_op (op k : Nibble) (n : Byte) (a : Addr) : (enc op k n a).op = op := by
  ext i hi
  simp only [CommandWord.op, enc, BitVec.getElem_extractLsb', BitVec.getLsbD_append]
  simp [hi]

@[simp] theorem enc_k (op k : Nibble) (n : Byte) (a : Addr) : (enc op k n a).k = k := by
  ext i hi
  simp only [CommandWord.k, enc, BitVec.getElem_extractLsb', BitVec.getLsbD_append]
  have h1 : ¬ (4 + i < 4) := by omega
  have h2 : 4 + i - 4 = i := by omega
  simp [h1, h2, hi]

@[simp] theorem enc_n (op k : Nibble) (n : Byte) (a : Addr) : (enc op k n a).n = n := by
  ext i hi
  simp only [CommandWord.n, enc, BitVec.getElem_extractLsb', BitVec.getLsbD_append]
  have h1 : ¬ (8 + i < 4) := by omega
  have h2 : ¬ (8 + i - 4 < 4) := by omega
  have h3 : 8 + i - 4 - 4 = i := by omega
  simp [h1, h2, h3, hi]

@[simp] theorem enc_a (op k : Nibble) (n : Byte) (a : Addr) : (enc op k n a).a = a := by
  ext i hi
  simp only [CommandWord.a, enc, BitVec.getElem_extractLsb', BitVec.getLsbD_append]
  have h1 : ¬ (16 + i < 4) := by omega
  have h2 : ¬ (16 + i - 4 < 4) := by omega
  have h3 : ¬ (16 + i - 4 - 4 < 8) := by omega
  have h4 : 16 + i - 4 - 4 - 8 = i := by omega
  simp [h1, h2, h3, h4, BitVec.getLsbD_eq_getElem hi]

@[simp] theorem encEvent_ev (ev : Nibble) (d : Byte) : (encEvent ev d).ev = ev := by
  ext i hi
  simp only [EventWord.ev, encEvent, BitVec.getElem_extractLsb', BitVec.getLsbD_append]
  simp [hi]

@[simp] theorem encEvent_d (ev : Nibble) (d : Byte) : (encEvent ev d).d = d := by
  ext i hi
  simp only [EventWord.d, encEvent, BitVec.getElem_extractLsb', BitVec.getLsbD_append]
  have h1 : ¬ (4 + i < 4) := by omega
  have h2 : 4 + i - 4 = i := by omega
  simp [h1, h2, BitVec.getLsbD_eq_getElem hi]

/-- A command word is its four fields. -/
theorem enc_fields (w : CommandWord) : enc w.op w.k w.n w.a = w := by
  ext i hi
  simp only [enc, CommandWord.op, CommandWord.k, CommandWord.n, CommandWord.a, ← BitVec.getLsbD_eq_getElem,
    BitVec.getLsbD_append, BitVec.getLsbD_extractLsb']
  split
  · simp_all
  · split
    · rename_i h1 h2; simp [h2, show 4 + (i - 4) = i by omega]
    · split
      · rename_i h1 h2 h3; simp [h3, show 8 + (i - 4 - 4) = i by omega]
      · rename_i h1 h2 h3
        simp [show i - 4 - 4 - 8 < 8 by omega, show 16 + (i - 4 - 4 - 8) = i by omega]

/-- An event word is its two fields. -/
theorem encEvent_fields (w : EventWord) : encEvent w.ev w.d = w := by
  ext i hi
  simp only [encEvent, EventWord.ev, EventWord.d, ← BitVec.getLsbD_eq_getElem, BitVec.getLsbD_append,
    BitVec.getLsbD_extractLsb']
  split
  · simp_all
  · rename_i h1; simp [show i - 4 < 8 by omega, show 4 + (i - 4) = i by omega]

@[simp] theorem ofCode_code (k : Target) : Target.ofCode k.code = some k := by
  cases k <;> rfl

/-- An identifier that names a target is that target's code. -/
theorem code_of_ofCode {c : Nibble} {k : Target} (h : Target.ofCode c = some k) : k.code = c := by
  revert c k; decide

/-- A word that passes the reserved-zero check decodes as if there were none. -/
theorem reservedZero_instr {zero : Bool} {rest : Decoded} {i : Instr} (h : reservedZero zero rest = .instr i) :
    zero = true ∧ rest = .instr i := by
  unfold reservedZero at h
  split at h
  · rename_i hz; exact ⟨hz, h⟩
  · cases h

/-- A word whose K names a target decodes to the instruction of that target. -/
theorem withTarget_instr {k : Nibble} {f : Target → Instr} {i : Instr} (h : withTarget k f = .instr i) :
    ∃ t, i = f t ∧ t.code = k := by
  unfold withTarget at h
  split at h
  · rename_i t ht; cases h; exact ⟨t, rfl, code_of_ofCode ht⟩
  · cases h

end Sys2Proof
end

