-- ==== Sys2Proof/Laws/State.lean ====
section
/-! SUPPORT. One lemma for each field of the state under each update, so that no proof unfolds a record update. -/

namespace Sys2Proof.Machine

/-! ### issue -/

@[simp] theorem issue_cfg (op : BusOp) (s : State) : (issue op s).cfg = s.cfg := rfl
@[simp] theorem issue_busy (op : BusOp) (s : State) : (issue op s).busy = s.busy := rfl
@[simp] theorem issue_phase (op : BusOp) (s : State) : (issue op s).phase = s.phase := rfl
@[simp] theorem issue_cont (op : BusOp) (s : State) : (issue op s).cont = s.cont := rfl
@[simp] theorem issue_bptr (op : BusOp) (s : State) : (issue op s).bptr = s.bptr := rfl
@[simp] theorem issue_brem (op : BusOp) (s : State) : (issue op s).brem = s.brem := rfl
@[simp] theorem issue_flag (op : BusOp) (s : State) : (issue op s).flag = s.flag := rfl
@[simp] theorem issue_halt (op : BusOp) (s : State) : (issue op s).halt = s.halt := rfl
@[simp] theorem issue_hcause (op : BusOp) (s : State) : (issue op s).hcause = s.hcause := rfl
@[simp] theorem issue_mem (op : BusOp) (s : State) : (issue op s).mem = s.mem := rfl
@[simp] theorem issue_fill (op : BusOp) (s : State) : (issue op s).fill = s.fill := rfl
@[simp] theorem issue_outst (op : BusOp) (s : State) : (issue op s).outst = if op = .stop then s.outst else some op := rfl
@[simp] theorem issue_bh (op : BusOp) (s : State) : (issue op s).bh = s.bh ++ [op] := rfl
@[simp] theorem issue_resp (op : BusOp) (s : State) : (issue op s).resp = s.resp := rfl
@[simp] theorem issue_draws (op : BusOp) (s : State) : (issue op s).draws = s.draws := rfl
@[simp] theorem issue_inputs (op : BusOp) (s : State) : (issue op s).inputs = s.inputs := rfl

/-! ### raiseFault -/

@[simp] theorem raiseFault_cfg (c : Cause) (s : State) : (raiseFault c s).cfg = s.cfg := rfl
@[simp] theorem raiseFault_busy (c : Cause) (s : State) : (raiseFault c s).busy = s.busy := rfl
@[simp] theorem raiseFault_phase (c : Cause) (s : State) : (raiseFault c s).phase = s.phase := rfl
@[simp] theorem raiseFault_cont (c : Cause) (s : State) : (raiseFault c s).cont = s.cont := rfl
@[simp] theorem raiseFault_bptr (c : Cause) (s : State) : (raiseFault c s).bptr = s.bptr := rfl
@[simp] theorem raiseFault_brem (c : Cause) (s : State) : (raiseFault c s).brem = s.brem := rfl
@[simp] theorem raiseFault_flag (c : Cause) (s : State) : (raiseFault c s).flag = s.flag := rfl
@[simp] theorem raiseFault_halt (c : Cause) (s : State) : (raiseFault c s).halt = true := rfl
@[simp] theorem raiseFault_hcause (c : Cause) (s : State) : (raiseFault c s).hcause = c := rfl
@[simp] theorem raiseFault_mem (c : Cause) (s : State) : (raiseFault c s).mem = s.mem := rfl
@[simp] theorem raiseFault_fill (c : Cause) (s : State) : (raiseFault c s).fill = s.fill := rfl
@[simp] theorem raiseFault_outst (c : Cause) (s : State) : (raiseFault c s).outst = s.outst := rfl
@[simp] theorem raiseFault_bh (c : Cause) (s : State) : (raiseFault c s).bh = s.bh := rfl
@[simp] theorem raiseFault_resp (c : Cause) (s : State) : (raiseFault c s).resp = s.resp := rfl
@[simp] theorem raiseFault_draws (c : Cause) (s : State) : (raiseFault c s).draws = s.draws := rfl
@[simp] theorem raiseFault_inputs (c : Cause) (s : State) : (raiseFault c s).inputs = s.inputs := rfl

/-! ### drawCursor -/

@[simp] theorem drawCursor_cfg (s : State) : (drawCursor s).cfg = s.cfg := rfl
@[simp] theorem drawCursor_busy (s : State) : (drawCursor s).busy = s.busy := rfl
@[simp] theorem drawCursor_phase (s : State) : (drawCursor s).phase = s.phase := rfl
@[simp] theorem drawCursor_cont (s : State) : (drawCursor s).cont = s.cont := rfl
@[simp] theorem drawCursor_bptr (s : State) : (drawCursor s).bptr = Config.bptrDraw s.draws := rfl
@[simp] theorem drawCursor_brem (s : State) : (drawCursor s).brem = Config.bremDraw s.draws := rfl
@[simp] theorem drawCursor_flag (s : State) : (drawCursor s).flag = s.flag := rfl
@[simp] theorem drawCursor_halt (s : State) : (drawCursor s).halt = s.halt := rfl
@[simp] theorem drawCursor_hcause (s : State) : (drawCursor s).hcause = s.hcause := rfl
@[simp] theorem drawCursor_mem (s : State) : (drawCursor s).mem = s.mem := rfl
@[simp] theorem drawCursor_fill (s : State) : (drawCursor s).fill = s.fill := rfl
@[simp] theorem drawCursor_outst (s : State) : (drawCursor s).outst = s.outst := rfl
@[simp] theorem drawCursor_bh (s : State) : (drawCursor s).bh = s.bh := rfl
@[simp] theorem drawCursor_resp (s : State) : (drawCursor s).resp = s.resp := rfl
@[simp] theorem drawCursor_draws (s : State) : (drawCursor s).draws = s.draws + 1 := rfl
@[simp] theorem drawCursor_inputs (s : State) : (drawCursor s).inputs = s.inputs := rfl

/-! ### setFlag -/

@[simp] theorem setFlag_cfg (s : State) : (setFlag s).cfg = s.cfg := rfl
@[simp] theorem setFlag_busy (s : State) : (setFlag s).busy = s.busy := rfl
@[simp] theorem setFlag_phase (s : State) : (setFlag s).phase = s.phase := rfl
@[simp] theorem setFlag_cont (s : State) : (setFlag s).cont = s.cont := rfl
@[simp] theorem setFlag_bptr (s : State) : (setFlag s).bptr = s.bptr := rfl
@[simp] theorem setFlag_brem (s : State) : (setFlag s).brem = s.brem := rfl
@[simp] theorem setFlag_flag (s : State) : (setFlag s).flag = true := rfl
@[simp] theorem setFlag_halt (s : State) : (setFlag s).halt = s.halt := rfl
@[simp] theorem setFlag_hcause (s : State) : (setFlag s).hcause = s.hcause := rfl
@[simp] theorem setFlag_mem (s : State) : (setFlag s).mem = s.mem := rfl
@[simp] theorem setFlag_fill (s : State) : (setFlag s).fill = s.fill := rfl
@[simp] theorem setFlag_outst (s : State) : (setFlag s).outst = s.outst := rfl
@[simp] theorem setFlag_bh (s : State) : (setFlag s).bh = s.bh := rfl
@[simp] theorem setFlag_resp (s : State) : (setFlag s).resp = s.resp := rfl
@[simp] theorem setFlag_draws (s : State) : (setFlag s).draws = s.draws := rfl
@[simp] theorem setFlag_inputs (s : State) : (setFlag s).inputs = s.inputs := rfl

/-! ### clearFlag -/

@[simp] theorem clearFlag_cfg (s : State) : (clearFlag s).cfg = s.cfg := rfl
@[simp] theorem clearFlag_busy (s : State) : (clearFlag s).busy = s.busy := rfl
@[simp] theorem clearFlag_phase (s : State) : (clearFlag s).phase = s.phase := rfl
@[simp] theorem clearFlag_cont (s : State) : (clearFlag s).cont = s.cont := rfl
@[simp] theorem clearFlag_bptr (s : State) : (clearFlag s).bptr = s.bptr := rfl
@[simp] theorem clearFlag_brem (s : State) : (clearFlag s).brem = s.brem := rfl
@[simp] theorem clearFlag_flag (s : State) : (clearFlag s).flag = false := rfl
@[simp] theorem clearFlag_halt (s : State) : (clearFlag s).halt = s.halt := rfl
@[simp] theorem clearFlag_hcause (s : State) : (clearFlag s).hcause = s.hcause := rfl
@[simp] theorem clearFlag_mem (s : State) : (clearFlag s).mem = s.mem := rfl
@[simp] theorem clearFlag_fill (s : State) : (clearFlag s).fill = s.fill := rfl
@[simp] theorem clearFlag_outst (s : State) : (clearFlag s).outst = s.outst := rfl
@[simp] theorem clearFlag_bh (s : State) : (clearFlag s).bh = s.bh := rfl
@[simp] theorem clearFlag_resp (s : State) : (clearFlag s).resp = s.resp := rfl
@[simp] theorem clearFlag_draws (s : State) : (clearFlag s).draws = s.draws := rfl
@[simp] theorem clearFlag_inputs (s : State) : (clearFlag s).inputs = s.inputs := rfl

/-! ### respond -/

@[simp] theorem respond_cfg (r : Answer) : (respond r).cfg = r.1.cfg := rfl
@[simp] theorem respond_busy (r : Answer) : (respond r).busy = r.1.busy := rfl
@[simp] theorem respond_phase (r : Answer) : (respond r).phase = r.1.phase := rfl
@[simp] theorem respond_cont (r : Answer) : (respond r).cont = r.1.cont := rfl
@[simp] theorem respond_bptr (r : Answer) : (respond r).bptr = r.1.bptr := rfl
@[simp] theorem respond_brem (r : Answer) : (respond r).brem = r.1.brem := rfl
@[simp] theorem respond_flag (r : Answer) : (respond r).flag = r.1.flag := rfl
@[simp] theorem respond_halt (r : Answer) : (respond r).halt = r.1.halt := rfl
@[simp] theorem respond_hcause (r : Answer) : (respond r).hcause = r.1.hcause := rfl
@[simp] theorem respond_mem (r : Answer) : (respond r).mem = r.1.mem := rfl
@[simp] theorem respond_fill (r : Answer) : (respond r).fill = r.1.fill := rfl
@[simp] theorem respond_outst (r : Answer) : (respond r).outst = r.1.outst := rfl
@[simp] theorem respond_bh (r : Answer) : (respond r).bh = r.1.bh := rfl
@[simp] theorem respond_resp (r : Answer) : (respond r).resp = r.2 := rfl
@[simp] theorem respond_draws (r : Answer) : (respond r).draws = r.1.draws := rfl
@[simp] theorem respond_inputs (r : Answer) : (respond r).inputs = r.1.inputs := rfl

/-! ### silent -/

@[simp] theorem silent_cfg (s : State) : (silent s).cfg = s.cfg := rfl
@[simp] theorem silent_busy (s : State) : (silent s).busy = s.busy := rfl
@[simp] theorem silent_phase (s : State) : (silent s).phase = s.phase := rfl
@[simp] theorem silent_cont (s : State) : (silent s).cont = s.cont := rfl
@[simp] theorem silent_bptr (s : State) : (silent s).bptr = s.bptr := rfl
@[simp] theorem silent_brem (s : State) : (silent s).brem = s.brem := rfl
@[simp] theorem silent_flag (s : State) : (silent s).flag = s.flag := rfl
@[simp] theorem silent_halt (s : State) : (silent s).halt = s.halt := rfl
@[simp] theorem silent_hcause (s : State) : (silent s).hcause = s.hcause := rfl
@[simp] theorem silent_mem (s : State) : (silent s).mem = s.mem := rfl
@[simp] theorem silent_fill (s : State) : (silent s).fill = s.fill := rfl
@[simp] theorem silent_outst (s : State) : (silent s).outst = s.outst := rfl
@[simp] theorem silent_bh (s : State) : (silent s).bh = s.bh := rfl
@[simp] theorem silent_resp (s : State) : (silent s).resp = none := rfl
@[simp] theorem silent_draws (s : State) : (silent s).draws = s.draws := rfl
@[simp] theorem silent_inputs (s : State) : (silent s).inputs = s.inputs := rfl

/-! ### delivered -/

@[simp] theorem delivered_cfg (s : State) : (delivered s).cfg = s.cfg := rfl
@[simp] theorem delivered_busy (s : State) : (delivered s).busy = s.busy := rfl
@[simp] theorem delivered_phase (s : State) : (delivered s).phase = s.phase := rfl
@[simp] theorem delivered_cont (s : State) : (delivered s).cont = s.cont := rfl
@[simp] theorem delivered_bptr (s : State) : (delivered s).bptr = s.bptr := rfl
@[simp] theorem delivered_brem (s : State) : (delivered s).brem = s.brem := rfl
@[simp] theorem delivered_flag (s : State) : (delivered s).flag = s.flag := rfl
@[simp] theorem delivered_halt (s : State) : (delivered s).halt = s.halt := rfl
@[simp] theorem delivered_hcause (s : State) : (delivered s).hcause = s.hcause := rfl
@[simp] theorem delivered_mem (s : State) : (delivered s).mem = s.mem := rfl
@[simp] theorem delivered_fill (s : State) : (delivered s).fill = s.fill := rfl
@[simp] theorem delivered_outst (s : State) : (delivered s).outst = none := rfl
@[simp] theorem delivered_bh (s : State) : (delivered s).bh = s.bh := rfl
@[simp] theorem delivered_resp (s : State) : (delivered s).resp = s.resp := rfl
@[simp] theorem delivered_draws (s : State) : (delivered s).draws = s.draws := rfl
@[simp] theorem delivered_inputs (s : State) : (delivered s).inputs = s.inputs := rfl

/-! ### engineIdle -/

@[simp] theorem engineIdle_cfg (s : State) : (engineIdle s).cfg = s.cfg := rfl
@[simp] theorem engineIdle_busy (s : State) : (engineIdle s).busy = false := rfl
@[simp] theorem engineIdle_phase (s : State) : (engineIdle s).phase = .idle := rfl
@[simp] theorem engineIdle_cont (s : State) : (engineIdle s).cont = .none := rfl
@[simp] theorem engineIdle_bptr (s : State) : (engineIdle s).bptr = Config.bptrDraw s.draws := rfl
@[simp] theorem engineIdle_brem (s : State) : (engineIdle s).brem = Config.bremDraw s.draws := rfl
@[simp] theorem engineIdle_flag (s : State) : (engineIdle s).flag = s.flag := rfl
@[simp] theorem engineIdle_halt (s : State) : (engineIdle s).halt = s.halt := rfl
@[simp] theorem engineIdle_hcause (s : State) : (engineIdle s).hcause = s.hcause := rfl
@[simp] theorem engineIdle_mem (s : State) : (engineIdle s).mem = s.mem := rfl
@[simp] theorem engineIdle_fill (s : State) : (engineIdle s).fill = s.fill := rfl
@[simp] theorem engineIdle_outst (s : State) : (engineIdle s).outst = s.outst := rfl
@[simp] theorem engineIdle_bh (s : State) : (engineIdle s).bh = s.bh := rfl
@[simp] theorem engineIdle_resp (s : State) : (engineIdle s).resp = s.resp := rfl
@[simp] theorem engineIdle_draws (s : State) : (engineIdle s).draws = s.draws + 1 := rfl
@[simp] theorem engineIdle_inputs (s : State) : (engineIdle s).inputs = s.inputs := rfl

/-! ### dropResponse -/

@[simp] theorem dropResponse_cfg (r : Answer) : (dropResponse r).cfg = r.1.cfg := rfl
@[simp] theorem dropResponse_busy (r : Answer) : (dropResponse r).busy = r.1.busy := rfl
@[simp] theorem dropResponse_phase (r : Answer) : (dropResponse r).phase = r.1.phase := rfl
@[simp] theorem dropResponse_cont (r : Answer) : (dropResponse r).cont = r.1.cont := rfl
@[simp] theorem dropResponse_bptr (r : Answer) : (dropResponse r).bptr = r.1.bptr := rfl
@[simp] theorem dropResponse_brem (r : Answer) : (dropResponse r).brem = r.1.brem := rfl
@[simp] theorem dropResponse_flag (r : Answer) : (dropResponse r).flag = r.1.flag := rfl
@[simp] theorem dropResponse_halt (r : Answer) : (dropResponse r).halt = r.1.halt := rfl
@[simp] theorem dropResponse_hcause (r : Answer) : (dropResponse r).hcause = r.1.hcause := rfl
@[simp] theorem dropResponse_mem (r : Answer) : (dropResponse r).mem = r.1.mem := rfl
@[simp] theorem dropResponse_fill (r : Answer) : (dropResponse r).fill = r.1.fill := rfl
@[simp] theorem dropResponse_outst (r : Answer) : (dropResponse r).outst = r.1.outst := rfl
@[simp] theorem dropResponse_bh (r : Answer) : (dropResponse r).bh = r.1.bh := rfl
@[simp] theorem dropResponse_resp (r : Answer) : (dropResponse r).resp = r.1.resp := rfl
@[simp] theorem dropResponse_draws (r : Answer) : (dropResponse r).draws = r.1.draws := rfl
@[simp] theorem dropResponse_inputs (r : Answer) : (dropResponse r).inputs = r.1.inputs := rfl

/-! ### memWrite, which touches the memory alone -/

@[simp] theorem memWrite_cfg (s : State) (a : Addr) (v : Byte) : (memWrite s a v).cfg = s.cfg := rfl
@[simp] theorem memWrite_busy (s : State) (a : Addr) (v : Byte) : (memWrite s a v).busy = s.busy := rfl
@[simp] theorem memWrite_phase (s : State) (a : Addr) (v : Byte) : (memWrite s a v).phase = s.phase := rfl
@[simp] theorem memWrite_cont (s : State) (a : Addr) (v : Byte) : (memWrite s a v).cont = s.cont := rfl
@[simp] theorem memWrite_bptr (s : State) (a : Addr) (v : Byte) : (memWrite s a v).bptr = s.bptr := rfl
@[simp] theorem memWrite_brem (s : State) (a : Addr) (v : Byte) : (memWrite s a v).brem = s.brem := rfl
@[simp] theorem memWrite_flag (s : State) (a : Addr) (v : Byte) : (memWrite s a v).flag = s.flag := rfl
@[simp] theorem memWrite_halt (s : State) (a : Addr) (v : Byte) : (memWrite s a v).halt = s.halt := rfl
@[simp] theorem memWrite_hcause (s : State) (a : Addr) (v : Byte) : (memWrite s a v).hcause = s.hcause := rfl
@[simp] theorem memWrite_fill (s : State) (a : Addr) (v : Byte) : (memWrite s a v).fill = s.fill := rfl
@[simp] theorem memWrite_outst (s : State) (a : Addr) (v : Byte) : (memWrite s a v).outst = s.outst := rfl
@[simp] theorem memWrite_bh (s : State) (a : Addr) (v : Byte) : (memWrite s a v).bh = s.bh := rfl
@[simp] theorem memWrite_resp (s : State) (a : Addr) (v : Byte) : (memWrite s a v).resp = s.resp := rfl
@[simp] theorem memWrite_draws (s : State) (a : Addr) (v : Byte) : (memWrite s a v).draws = s.draws := rfl
@[simp] theorem memWrite_inputs (s : State) (a : Addr) (v : Byte) : (memWrite s a v).inputs = s.inputs := rfl

/-! ### memWriteAll -/

@[simp] theorem memWriteAll_cfg (s : State) (ps : List (Addr × Byte)) : (memWriteAll s ps).cfg = s.cfg := by
  induction ps generalizing s with
  | nil => rfl
  | cons p ps ih => simp [memWriteAll, ih]
@[simp] theorem memWriteAll_busy (s : State) (ps : List (Addr × Byte)) : (memWriteAll s ps).busy = s.busy := by
  induction ps generalizing s with
  | nil => rfl
  | cons p ps ih => simp [memWriteAll, ih]
@[simp] theorem memWriteAll_phase (s : State) (ps : List (Addr × Byte)) : (memWriteAll s ps).phase = s.phase := by
  induction ps generalizing s with
  | nil => rfl
  | cons p ps ih => simp [memWriteAll, ih]
@[simp] theorem memWriteAll_cont (s : State) (ps : List (Addr × Byte)) : (memWriteAll s ps).cont = s.cont := by
  induction ps generalizing s with
  | nil => rfl
  | cons p ps ih => simp [memWriteAll, ih]
@[simp] theorem memWriteAll_bptr (s : State) (ps : List (Addr × Byte)) : (memWriteAll s ps).bptr = s.bptr := by
  induction ps generalizing s with
  | nil => rfl
  | cons p ps ih => simp [memWriteAll, ih]
@[simp] theorem memWriteAll_brem (s : State) (ps : List (Addr × Byte)) : (memWriteAll s ps).brem = s.brem := by
  induction ps generalizing s with
  | nil => rfl
  | cons p ps ih => simp [memWriteAll, ih]
@[simp] theorem memWriteAll_flag (s : State) (ps : List (Addr × Byte)) : (memWriteAll s ps).flag = s.flag := by
  induction ps generalizing s with
  | nil => rfl
  | cons p ps ih => simp [memWriteAll, ih]
@[simp] theorem memWriteAll_halt (s : State) (ps : List (Addr × Byte)) : (memWriteAll s ps).halt = s.halt := by
  induction ps generalizing s with
  | nil => rfl
  | cons p ps ih => simp [memWriteAll, ih]
@[simp] theorem memWriteAll_hcause (s : State) (ps : List (Addr × Byte)) : (memWriteAll s ps).hcause = s.hcause := by
  induction ps generalizing s with
  | nil => rfl
  | cons p ps ih => simp [memWriteAll, ih]
@[simp] theorem memWriteAll_fill (s : State) (ps : List (Addr × Byte)) : (memWriteAll s ps).fill = s.fill := by
  induction ps generalizing s with
  | nil => rfl
  | cons p ps ih => simp [memWriteAll, ih]
@[simp] theorem memWriteAll_outst (s : State) (ps : List (Addr × Byte)) : (memWriteAll s ps).outst = s.outst := by
  induction ps generalizing s with
  | nil => rfl
  | cons p ps ih => simp [memWriteAll, ih]
@[simp] theorem memWriteAll_bh (s : State) (ps : List (Addr × Byte)) : (memWriteAll s ps).bh = s.bh := by
  induction ps generalizing s with
  | nil => rfl
  | cons p ps ih => simp [memWriteAll, ih]
@[simp] theorem memWriteAll_resp (s : State) (ps : List (Addr × Byte)) : (memWriteAll s ps).resp = s.resp := by
  induction ps generalizing s with
  | nil => rfl
  | cons p ps ih => simp [memWriteAll, ih]
@[simp] theorem memWriteAll_draws (s : State) (ps : List (Addr × Byte)) : (memWriteAll s ps).draws = s.draws := by
  induction ps generalizing s with
  | nil => rfl
  | cons p ps ih => simp [memWriteAll, ih]
@[simp] theorem memWriteAll_inputs (s : State) (ps : List (Addr × Byte)) : (memWriteAll s ps).inputs = s.inputs := by
  induction ps generalizing s with
  | nil => rfl
  | cons p ps ih => simp [memWriteAll, ih]

/-! ### storeReceived -/

@[simp] theorem storeReceived_cfg (d : Byte) (s : State) : (storeReceived d s).cfg = s.cfg := rfl
@[simp] theorem storeReceived_busy (d : Byte) (s : State) : (storeReceived d s).busy = s.busy := rfl
@[simp] theorem storeReceived_phase (d : Byte) (s : State) : (storeReceived d s).phase = s.phase := rfl
@[simp] theorem storeReceived_cont (d : Byte) (s : State) : (storeReceived d s).cont = s.cont := rfl
@[simp] theorem storeReceived_bptr (d : Byte) (s : State) : (storeReceived d s).bptr = nextAddr s.bptr := rfl
@[simp] theorem storeReceived_brem (d : Byte) (s : State) : (storeReceived d s).brem = lessOne s.brem := rfl
@[simp] theorem storeReceived_flag (d : Byte) (s : State) : (storeReceived d s).flag = s.flag := rfl
@[simp] theorem storeReceived_halt (d : Byte) (s : State) : (storeReceived d s).halt = s.halt := rfl
@[simp] theorem storeReceived_hcause (d : Byte) (s : State) : (storeReceived d s).hcause = s.hcause := rfl
@[simp] theorem storeReceived_fill (d : Byte) (s : State) : (storeReceived d s).fill = s.fill := rfl
@[simp] theorem storeReceived_outst (d : Byte) (s : State) : (storeReceived d s).outst = s.outst := rfl
@[simp] theorem storeReceived_bh (d : Byte) (s : State) : (storeReceived d s).bh = s.bh := rfl
@[simp] theorem storeReceived_resp (d : Byte) (s : State) : (storeReceived d s).resp = s.resp := rfl
@[simp] theorem storeReceived_draws (d : Byte) (s : State) : (storeReceived d s).draws = s.draws := rfl
@[simp] theorem storeReceived_inputs (d : Byte) (s : State) : (storeReceived d s).inputs = s.inputs := rfl
@[simp] theorem storeReceived_mem (d : Byte) (s : State) : (storeReceived d s).mem = (memWrite s s.bptr d).mem := rfl

end Sys2Proof.Machine
end

