-- ==== Sys2Proof/Laws/Memory.lean ====
section
/-! SUPPORT. What the memory operations do: a read after a write, the canonical form, and the updates that leave the memory
alone. -/

namespace Sys2Proof.Machine

/-! ### Cell lists -/

theorem lookupCell_insertCell_self (cs : List Host.Cell) (k : Nat) (v : Byte) :
    lookupCell (insertCell cs k v) k = some v := by
  induction cs with
  | nil => simp [insertCell, lookupCell]
  | cons c cs ih =>
    unfold insertCell
    split
    · simp [lookupCell]
    · split
      · simp [lookupCell]
      · rename_i h; simp [lookupCell, h, ih]

theorem lookupCell_insertCell_other (cs : List Host.Cell) {j k : Nat} (v : Byte) (h : j ≠ k) :
    lookupCell (insertCell cs k v) j = lookupCell cs j := by
  induction cs with
  | nil => simp [insertCell, lookupCell, Ne.symm h]
  | cons c cs ih =>
    unfold insertCell
    split
    · simp [lookupCell, Ne.symm h]
    · split
      · rename_i hc; simp [lookupCell, Ne.symm h, hc]
      · simp [lookupCell, ih]

theorem lookupCell_eraseCell_self (cs : List Host.Cell) (k : Nat) : lookupCell (eraseCell cs k) k = none := by
  induction cs with
  | nil => rfl
  | cons c cs ih =>
    unfold eraseCell
    split
    · exact ih
    · rename_i h; simp [lookupCell, h, ih]

theorem lookupCell_eraseCell_other (cs : List Host.Cell) {j k : Nat} (h : j ≠ k) :
    lookupCell (eraseCell cs k) j = lookupCell cs j := by
  induction cs with
  | nil => rfl
  | cons c cs ih =>
    unfold eraseCell
    split
    · rename_i hc; simp [lookupCell, ih, hc, Ne.symm h]
    · simp [lookupCell, ih]

theorem lookupCell_mem {cs : List Host.Cell} {k : Nat} {v : Byte} (h : lookupCell cs k = some v) : (k, v) ∈ cs := by
  induction cs with
  | nil => simp [lookupCell] at h
  | cons c cs ih =>
    unfold lookupCell at h
    split at h
    · rename_i hc; obtain ⟨k', v'⟩ := c; simp_all
    · exact List.mem_cons_of_mem _ (ih h)

theorem mem_insertCell {cs : List Host.Cell} {k : Nat} {v : Byte} {c : Host.Cell} (h : c ∈ insertCell cs k v) :
    c = (k, v) ∨ c ∈ cs := by
  induction cs with
  | nil => simpa [insertCell] using h
  | cons d ds ih =>
    unfold insertCell at h
    split at h
    · simpa using h
    · split at h
      · simp at h; tauto
      · simp only [List.mem_cons] at h ⊢
        rcases h with h | h
        · exact .inr (.inl h)
        · rcases ih h with h | h <;> tauto

theorem mem_eraseCell {cs : List Host.Cell} {k : Nat} {c : Host.Cell} (h : c ∈ eraseCell cs k) : c ∈ cs := by
  induction cs with
  | nil => simp [eraseCell] at h
  | cons d ds ih =>
    unfold eraseCell at h
    split at h
    · exact List.mem_cons_of_mem _ (ih h)
    · simp only [List.mem_cons] at h ⊢
      exact h.imp_right ih

theorem keysRising_insertCell {cs : List Host.Cell} {k : Nat} {v : Byte} (h : keysRising cs = true) :
    keysRising (insertCell cs k v) = true := by
  induction cs with
  | nil => rfl
  | cons c cs ih =>
    simp only [keysRising, Bool.and_eq_true, List.all_eq_true, decide_eq_true_eq] at h
    unfold insertCell
    split
    · rename_i hk
      simp only [keysRising, Bool.and_eq_true, List.all_eq_true, decide_eq_true_eq, List.mem_cons]
      refine ⟨?_, h.1, h.2⟩
      rintro d (rfl | hd)
      · exact hk
      · have := h.1 d hd; omega
    · split
      · rename_i hc
        simp only [keysRising, Bool.and_eq_true, List.all_eq_true, decide_eq_true_eq]
        exact ⟨fun d hd => hc ▸ h.1 d hd, h.2⟩
      · simp only [keysRising, Bool.and_eq_true, List.all_eq_true, decide_eq_true_eq]
        refine ⟨fun d hd => ?_, ih h.2⟩
        rcases mem_insertCell hd with rfl | hd
        · simp only; omega
        · exact h.1 d hd

theorem keysRising_eraseCell {cs : List Host.Cell} {k : Nat} (h : keysRising cs = true) :
    keysRising (eraseCell cs k) = true := by
  induction cs with
  | nil => rfl
  | cons c cs ih =>
    simp only [keysRising, Bool.and_eq_true, List.all_eq_true, decide_eq_true_eq] at h
    unfold eraseCell
    split
    · exact ih h.2
    · simp only [keysRising, Bool.and_eq_true, List.all_eq_true, decide_eq_true_eq]
      exact ⟨fun d hd => h.1 d (mem_eraseCell hd), ih h.2⟩

/-! ### Reading and writing one byte -/

/-- A byte read depends on the memory, the fill and the configuration alone. -/
theorem memRead_congr {s t : State} (a : Addr) (hm : t.mem = s.mem) (hf : t.fill = s.fill) (hc : t.cfg = s.cfg) :
    memRead t a = memRead s a := by
  simp [memRead, unlisted, hm, hf, hc]

theorem unlisted_memWrite (s : State) (a b : Addr) (v : Byte) : unlisted (memWrite s a v) b = unlisted s b := by
  simp [unlisted]

/-- A write seen by a read: the written byte at its own address, every other byte as before; the ROM takes no write. -/
theorem memRead_memWrite (s : State) (a b : Addr) (v : Byte) :
    memRead (memWrite s a v) b = if isRom a = false ∧ b = a then v else memRead s b := by
  unfold memRead
  rw [unlisted_memWrite]
  unfold memWrite cellsAfter
  by_cases hr : isRom a = true
  · simp [hr]
  · simp only [Bool.not_eq_true] at hr
    simp only [hr, Bool.false_eq_true, if_false, true_and]
    by_cases hb : b = a
    · subst hb
      split
      · rename_i hv; simp [lookupCell_eraseCell_self, hv]
      · simp [lookupCell_insertCell_self]
    · have hne : b.toNat ≠ a.toNat := fun h => hb (BitVec.eq_of_toNat_eq h)
      simp only [if_neg hb]
      split
      · simp [lookupCell_eraseCell_other _ hne]
      · simp [lookupCell_insertCell_other _ _ hne]

theorem memRead_memWrite_self (s : State) {a : Addr} (v : Byte) (h : isRom a = false) :
    memRead (memWrite s a v) a = v := by
  simp [memRead_memWrite, h]

theorem memRead_memWrite_other (s : State) {a b : Addr} (v : Byte) (h : b ≠ a) :
    memRead (memWrite s a v) b = memRead s b := by
  simp [memRead_memWrite, h]

/-! ### The canonical form -/

/-- The canonical form depends on the memory, the fill and the configuration alone. -/
theorem wf_congr {s t : State} (hm : t.mem = s.mem) (hf : t.fill = s.fill) (hc : t.cfg = s.cfg) :
    Memory.wf t = Memory.wf s := by
  have h : cellListable t = cellListable s := by
    funext c; simp [cellListable, unlisted, hf, hc]
  simp [Memory.wf, hm, h]

/-- A write keeps the canonical form. -/
theorem memWrite_wf {s : State} (a : Addr) (v : Byte) (h : Memory.wf s = true) : Memory.wf (memWrite s a v) = true := by
  have hl : cellListable (memWrite s a v) = cellListable s := by
    funext c; simp [cellListable, unlisted_memWrite]
  simp only [Memory.wf, Bool.and_eq_true, hl, List.all_eq_true] at h ⊢
  unfold memWrite cellsAfter
  split
  · exact h
  · rename_i hr
    split
    · exact ⟨keysRising_eraseCell h.1, fun c hc => h.2 c (mem_eraseCell hc)⟩
    · rename_i hv
      refine ⟨keysRising_insertCell h.1, fun c hc => ?_⟩
      rcases mem_insertCell hc with rfl | hc
      · simp [cellListable, hr, hv, a.isLt]
      · exact h.2 c hc

theorem memWriteAll_wf {s : State} (ps : List (Addr × Byte)) (h : Memory.wf s = true) :
    Memory.wf (memWriteAll s ps) = true := by
  induction ps generalizing s with
  | nil => exact h
  | cons p ps ih => exact ih (memWrite_wf _ _ h)

/-- In the canonical form the ROM reads as its constants. -/
theorem memRead_rom {s : State} {a : Addr} (h : Memory.wf s = true) (ha : isRom a = true) : memRead s a = unlisted s a := by
  unfold memRead
  cases hl : lookupCell s.mem a.toNat with
  | none => rfl
  | some v =>
    simp only [Memory.wf, Bool.and_eq_true, List.all_eq_true] at h
    have := h.2 _ (lookupCell_mem hl)
    simp [cellListable, ha] at this

/-- A machine fresh from reset has the canonical form. -/
theorem afterReset_wf (c : Config) (n : Nat) (is : List Input) : Memory.wf (State.afterReset c n is) = true := rfl

/-! ### Updates that leave the memory alone -/

@[simp] theorem memRead_issue (op : BusOp) (s : State) (a : Addr) : memRead (issue op s) a = memRead s a := rfl
@[simp] theorem memRead_raiseFault (c : Cause) (s : State) (a : Addr) : memRead (raiseFault c s) a = memRead s a := rfl
@[simp] theorem memRead_setFlag (s : State) (a : Addr) : memRead (setFlag s) a = memRead s a := rfl
@[simp] theorem memRead_clearFlag (s : State) (a : Addr) : memRead (clearFlag s) a = memRead s a := rfl
@[simp] theorem memRead_respond (r : Answer) (a : Addr) : memRead (respond r) a = memRead r.1 a := rfl
@[simp] theorem memRead_dropResponse (r : Answer) (a : Addr) : memRead (dropResponse r) a = memRead r.1 a := rfl
@[simp] theorem memRead_silent (s : State) (a : Addr) : memRead (silent s) a = memRead s a := rfl
@[simp] theorem memRead_delivered (s : State) (a : Addr) : memRead (delivered s) a = memRead s a := rfl
@[simp] theorem memRead_engineIdle (s : State) (a : Addr) : memRead (engineIdle s) a = memRead s a := rfl
@[simp] theorem wf_issue (op : BusOp) (s : State) : Memory.wf (issue op s) = Memory.wf s := rfl
@[simp] theorem wf_raiseFault (c : Cause) (s : State) : Memory.wf (raiseFault c s) = Memory.wf s := rfl
@[simp] theorem wf_setFlag (s : State) : Memory.wf (setFlag s) = Memory.wf s := rfl
@[simp] theorem wf_clearFlag (s : State) : Memory.wf (clearFlag s) = Memory.wf s := rfl
@[simp] theorem wf_respond (r : Answer) : Memory.wf (respond r) = Memory.wf r.1 := rfl
@[simp] theorem wf_dropResponse (r : Answer) : Memory.wf (dropResponse r) = Memory.wf r.1 := rfl
@[simp] theorem wf_silent (s : State) : Memory.wf (silent s) = Memory.wf s := rfl
@[simp] theorem wf_delivered (s : State) : Memory.wf (delivered s) = Memory.wf s := rfl
@[simp] theorem wf_engineIdle (s : State) : Memory.wf (engineIdle s) = Memory.wf s := rfl

end Sys2Proof.Machine
end

