-- ==== Sys2Proof/Laws/Ops.lean ====
section
/-! SUPPORT. Once for each shared operation: everything it can do. The provers cite these instead of unfolding a request, a
target's action, VALIDATE or a completion. -/

namespace Sys2Proof.Machine

/-! ### Running and halted -/

theorem whileRunning_running {s : State} (h : s.halt = false) (f : State → State) : whileRunning s f = .next (f s) := by
  simp [whileRunning, h]

theorem whileRunning_halted {s : State} (h : s.halt = true) (f : State → State) :
    whileRunning s f = .fault (.halted s.hcause) := by
  simp [whileRunning, h]

/-- A meaning answers a next state exactly while HALT = 0, and then it is the rule's state. -/
theorem whileRunning_next {s t : State} {f : State → State} :
    whileRunning s f = .next t ↔ s.halt = false ∧ f s = t := by
  unfold whileRunning
  cases s.halt <;> simp

/-! ### START -/

theorem requestStart_busy {s : State} (h : s.busy = true) (k : Target) : requestStart k s = (s, rejected) := by
  simp [requestStart, h]

theorem requestStart_idle {s : State} (h : s.busy = false) (k : Target) :
    requestStart k s = (issue .start { s with busy := true, phase := .command, cont := k }, accepted) := by
  simp [requestStart, h]

/-! ### SEND -/

theorem requestSend_zero (s : State) (a : Addr) (k : Target) : requestSend a 0#8 k s = (s, accepted) := by
  simp [requestSend]

theorem requestSend_busy {s : State} {n : Count} (hn : n ≠ 0#8) (h : s.busy = true) (a : Addr) (k : Target) :
    requestSend a n k s = (s, rejected) := by
  simp [requestSend, hn, h]

theorem requestSend_range {s : State} {a : Addr} {n : Count} (hn : n ≠ 0#8) (h : s.busy = false) (hr : sendOk a n = false)
    (k : Target) : requestSend a n k s = (raiseFault .bufferRange s, none) := by
  simp [requestSend, hn, h, hr]

theorem requestSend_accepted {s : State} {a : Addr} {n : Count} (hn : n ≠ 0#8) (h : s.busy = false) (hr : sendOk a n = true)
    (k : Target) :
    requestSend a n k s =
      (issue (.tx (memRead s a))
        { s with busy := true, phase := .sending, cont := k, bptr := nextAddr a, brem := lessOne n }, accepted) := by
  simp [requestSend, hn, h, hr]

/-- What SEND can answer. -/
theorem requestSend_cases (a : Addr) (n : Count) (k : Target) (s : State) :
    (n = 0#8 ∧ requestSend a n k s = (s, accepted)) ∨
    (n ≠ 0#8 ∧ s.busy = true ∧ requestSend a n k s = (s, rejected)) ∨
    (n ≠ 0#8 ∧ s.busy = false ∧ sendOk a n = false ∧ requestSend a n k s = (raiseFault .bufferRange s, none)) ∨
    (n ≠ 0#8 ∧ s.busy = false ∧ sendOk a n = true ∧
      requestSend a n k s =
        (issue (.tx (memRead s a))
          { s with busy := true, phase := .sending, cont := k, bptr := nextAddr a, brem := lessOne n }, accepted)) := by
  by_cases hn : n = 0
  · exact .inl ⟨hn, hn ▸ requestSend_zero s a k⟩
  · cases hb : s.busy
    · cases hr : sendOk a n
      · exact .inr (.inr (.inl ⟨hn, rfl, rfl, requestSend_range hn hb hr k⟩))
      · exact .inr (.inr (.inr ⟨hn, rfl, rfl, requestSend_accepted hn hb hr k⟩))
    · exact .inr (.inl ⟨hn, rfl, requestSend_busy hn hb a k⟩)

/-! ### RECV -/

theorem requestRecv_zero (s : State) (a : Addr) (k : Target) : requestRecv a 0#8 k s = (s, accepted) := by
  simp [requestRecv]

theorem requestRecv_busy {s : State} {n : Count} (hn : n ≠ 0#8) (h : s.busy = true) (a : Addr) (k : Target) :
    requestRecv a n k s = (s, rejected) := by
  simp [requestRecv, hn, h]

theorem requestRecv_range {s : State} {a : Addr} {n : Count} (hn : n ≠ 0#8) (h : s.busy = false) (hr : recvOk a n = false)
    (k : Target) : requestRecv a n k s = (raiseFault .bufferRange s, none) := by
  simp [requestRecv, hn, h, hr]

theorem requestRecv_accepted {s : State} {a : Addr} {n : Count} (hn : n ≠ 0#8) (h : s.busy = false) (hr : recvOk a n = true)
    (k : Target) :
    requestRecv a n k s =
      (issue (.rx (ackFor n)) { s with busy := true, phase := .receiving, cont := k, bptr := a, brem := n }, accepted) := by
  simp [requestRecv, hn, h, hr]

/-- What RECV can answer. -/
theorem requestRecv_cases (a : Addr) (n : Count) (k : Target) (s : State) :
    (n = 0#8 ∧ requestRecv a n k s = (s, accepted)) ∨
    (n ≠ 0#8 ∧ s.busy = true ∧ requestRecv a n k s = (s, rejected)) ∨
    (n ≠ 0#8 ∧ s.busy = false ∧ recvOk a n = false ∧ requestRecv a n k s = (raiseFault .bufferRange s, none)) ∨
    (n ≠ 0#8 ∧ s.busy = false ∧ recvOk a n = true ∧
      requestRecv a n k s =
        (issue (.rx (ackFor n)) { s with busy := true, phase := .receiving, cont := k, bptr := a, brem := n },
          accepted)) := by
  by_cases hn : n = 0
  · exact .inl ⟨hn, hn ▸ requestRecv_zero s a k⟩
  · cases hb : s.busy
    · cases hr : recvOk a n
      · exact .inr (.inr (.inl ⟨hn, rfl, rfl, requestRecv_range hn hb hr k⟩))
      · exact .inr (.inr (.inr ⟨hn, rfl, rfl, requestRecv_accepted hn hb hr k⟩))
    · exact .inr (.inl ⟨hn, rfl, requestRecv_busy hn hb a k⟩)

/-! ### STOP -/

theorem requestStop_busy {s : State} (h : s.busy = true) : requestStop s = (s, rejected) := by
  simp [requestStop, h]

theorem requestStop_idle {s : State} (h : s.busy = false) : requestStop s = (issue .stop s, accepted) := by
  simp [requestStop, h]

/-! ### The targets' actions in the idle engine that dispatches them -/

theorem actRdAddr_idle {s : State} (h : s.busy = false) :
    actRdAddr s = issue (.tx (memRead s 0x08#8))
      { s with busy := true, phase := .sending, cont := .rdRestart, bptr := 0x09#8, brem := 1#8 } := by
  rw [actRdAddr, requestSend_accepted (by decide) h (by decide)]; rfl

theorem actRdRestart_idle {s : State} (h : s.busy = false) :
    actRdRestart s = issue .start { s with busy := true, phase := .command, cont := .rdDevread } := by
  rw [actRdRestart, requestStart_idle h]; rfl

theorem actRdDevread_idle {s : State} (h : s.busy = false) :
    actRdDevread s = issue (.tx (memRead s 0x0A#8))
      { s with busy := true, phase := .sending, cont := .rdRecv, bptr := 0x0B, brem := 0#8 } := by
  rw [actRdDevread, requestSend_accepted (by decide) h (by decide)]; rfl

theorem actRdRecv_idle {s : State} (h : s.busy = false) :
    actRdRecv s = issue (.rx true)
      { s with busy := true, phase := .receiving, cont := .rdFinish, bptr := 0x00#8, brem := 8#8 } := by
  rw [actRdRecv, requestRecv_accepted (by decide) h (by decide)]; rfl

theorem actRdFinish_idle {s : State} (h : s.busy = false) : actRdFinish s = validate (issue .stop s) := by
  rw [actRdFinish, requestStop_idle h]; rfl

theorem actWrAddr_idle {s : State} (h : s.busy = false) :
    actWrAddr s = issue (.tx (memRead s 0x08#8))
      { s with busy := true, phase := .sending, cont := .wrData, bptr := 0x09#8, brem := 1#8 } := by
  rw [actWrAddr, requestSend_accepted (by decide) h (by decide)]; rfl

theorem actWrData_idle {s : State} (h : s.busy = false) :
    actWrData s = issue (.tx (memRead s 0x00#8))
      { s with busy := true, phase := .sending, cont := .wrFinish, bptr := 0x01#8, brem := 7#8 } := by
  rw [actWrData, requestSend_accepted (by decide) h (by decide)]; rfl

theorem actWrFinish_idle {s : State} (h : s.busy = false) : actWrFinish s = issue .stop s := by
  rw [actWrFinish, requestStop_idle h]; rfl

/-! ### VALIDATE -/

/-- The first correction, byte by byte. -/
theorem memRead_repairSeconds (s : State) (a : Addr) :
    memRead (repairSeconds s) a =
      if secondsInvalid s = true then
        (if a = 0x07#8 then s.cfg.ctrlValue else if h : a.toNat < 7 then s.cfg.defaultTime[a.toNat] else memRead s a)
      else memRead s a := by
  unfold repairSeconds
  split
  · simp only [defaultBlock, memWriteAll, memRead_memWrite]
    by_cases h : a.toNat < 8
    · obtain ⟨n, hn⟩ : ∃ n, a.toNat = n := ⟨_, rfl⟩
      have ha : a = BitVec.ofNat 8 n := by rw [← hn]; simp
      subst ha
      have : n < 8 := by rw [← hn]; exact h
      interval_cases n <;> simp [isRom]
    · have hne : ∀ n : Nat, n < 8 → a ≠ BitVec.ofNat 8 n := by
        rintro n hn rfl
        exact h (by simp; omega)
      simp [hne 0, hne 1, hne 2, hne 3, hne 4, hne 5, hne 6, hne 7, show ¬ a.toNat < 7 by omega]
  · rfl

@[simp] theorem repairSeconds_cfg (s : State) : (repairSeconds s).cfg = s.cfg := by
  unfold repairSeconds; split <;> simp

/-- The control byte is wrong after the first correction exactly where that did not apply and it was wrong before. -/
theorem controlWrong_repairSeconds (s : State) :
    controlWrong (repairSeconds s) = (!secondsInvalid s && controlWrong s) := by
  unfold controlWrong
  rw [memRead_repairSeconds]
  cases secondsInvalid s <;> simp

/-- A write-back is needed where either correction applies to the block as VALIDATE finds it. -/
theorem writeBackNeeded_eq (s : State) : writeBackNeeded s = (secondsInvalid s || controlWrong s) := by
  rw [writeBackNeeded, controlWrong_repairSeconds]
  cases secondsInvalid s <;> simp

/-- Both corrections, byte by byte. -/
theorem memRead_repaired (s : State) (a : Addr) :
    memRead (repairControl (repairSeconds s)) a =
      if a = 0x07#8 then s.cfg.ctrlValue
      else if secondsInvalid s = true then (if h : a.toNat < 7 then s.cfg.defaultTime[a.toNat] else memRead s a)
      else memRead s a := by
  have hc : memRead (repairControl (repairSeconds s)) a =
      if a = 0x07#8 then s.cfg.ctrlValue else memRead (repairSeconds s) a := by
    unfold repairControl
    split
    · rw [memRead_memWrite]; simp [isRom]
    · rename_i h
      split
      · rename_i h7; subst h7
        simpa [controlWrong] using h
      · rfl
  rw [hc, memRead_repairSeconds]
  split <;> simp_all

theorem memWriteAll_eq (s : State) (ps : List (Addr × Byte)) :
    memWriteAll s ps = { s with mem := (memWriteAll s ps).mem } := by
  induction ps generalizing s with
  | nil => rfl
  | cons p ps ih => rw [memWriteAll, ih]; rfl

/-- The corrections write the memory alone. -/
theorem repaired_eq (s : State) :
    repairControl (repairSeconds s) = { s with mem := (repairControl (repairSeconds s)).mem } := by
  have h : repairSeconds s = { s with mem := (repairSeconds s).mem } := by
    unfold repairSeconds; split
    · exact memWriteAll_eq s _
    · rfl
  unfold repairControl; split
  · rw [h]; rfl
  · exact h

theorem repaired_wf {s : State} (h : Memory.wf s = true) : Memory.wf (repairControl (repairSeconds s)) = true := by
  have h1 : Memory.wf (repairSeconds s) = true := by
    unfold repairSeconds; split
    · exact memWriteAll_wf _ h
    · exact h
  unfold repairControl; split
  · exact memWrite_wf _ _ h1
  · exact h1

/-- VALIDATE in the idle engine RD_FINISH runs it in: the repaired block, a write chain started where a correction applied,
FLAG set. -/
theorem validate_idle {s : State} (h : s.busy = false) :
    validate s =
      if secondsInvalid s || controlWrong s then
        setFlag (issue .start
          { s with mem := (repairControl (repairSeconds s)).mem, busy := true, phase := .command, cont := .wrAddr })
      else setFlag { s with mem := (repairControl (repairSeconds s)).mem } := by
  unfold validate writeBack
  rw [writeBackNeeded_eq]
  generalize hm : (repairControl (repairSeconds s)).mem = m
  rw [repaired_eq, hm]
  split
  · rw [requestWrrtc, requestStart_idle (by exact h)]; rfl
  · rfl

end Sys2Proof.Machine
end

