-- ==== Sys2Proof/Laws/Exec.lean ====
section
/-! SUPPORT. What `exec` and `step` can do, said once: every meaning is a rule run while HALT = 0, and every step is a wait, a
reset or one meaning. -/

namespace Sys2Proof.Machine

/-- The rule each meaning runs while HALT = 0. -/
def effect : Instr → State → State
  | .start k, s => respond (requestStart k s)
  | .send a n k, s => respond (requestSend a n k s)
  | .recv a n k, s => respond (requestRecv a n k s)
  | .stop, s => respond (requestStop s)
  | .rdrtc, s => respond (requestStart .rdAddr s)
  | .wrrtc, s => respond (requestStart .wrAddr s)
  | .flgclr, s => respond (requestFlgclr s)
  | .status, s => respond (requestStatus s)
  | .memrd a, s => respond (requestMemrd a s)
  | .memwr a v, s => respond (requestMemwr a v s)
  | .busDone d, s => silent (busDone d s)
  | .trig, s => silent (trigger s)
  | .kNone, s => silent (actNone s)
  | .kRdAddr, s => silent (actRdAddr s)
  | .kRdRestart, s => silent (actRdRestart s)
  | .kRdDevread, s => silent (actRdDevread s)
  | .kRdRecv, s => silent (actRdRecv s)
  | .kRdFinish, s => silent (actRdFinish s)
  | .kWrAddr, s => silent (actWrAddr s)
  | .kWrData, s => silent (actWrData s)
  | .kWrFinish, s => silent (actWrFinish s)

theorem exec_eq (i : Instr) (s : State) : exec i s = whileRunning s (effect i) := by
  cases i <;> rfl

theorem exec_running {s : State} (h : s.halt = false) (i : Instr) : exec i s = .next (effect i s) := by
  rw [exec_eq, whileRunning_running h]

theorem exec_halted {s : State} (h : s.halt = true) (i : Instr) : exec i s = .fault (.halted s.hcause) := by
  rw [exec_eq, whileRunning_halted h]

theorem exec_next {i : Instr} {s t : State} : exec i s = .next t ↔ s.halt = false ∧ effect i s = t := by
  rw [exec_eq, whileRunning_next]

/-- Dispatch of a target is the effect of the target's row of the opcode table. -/
theorem effect_target (k : Target) (s : State) : effect k.instr s = silent (dispatch k s) := by
  cases k <;> rfl

/-! ### BUS_DONE by phase -/

theorem busDone_idle {s : State} (h : s.busy = false) (d : Byte) : busDone d s = raiseFault .spuriousCompletion s := by
  simp [busDone, h]

theorem busDone_sending_more {s : State} (h : s.busy = true) (hp : s.phase = .sending) (hn : 0 < s.brem.toNat) (d : Byte) :
    busDone d s =
      { issue (.tx (memRead s s.bptr)) s with bptr := nextAddr s.bptr, brem := lessOne s.brem } := by
  simp [busDone, h, handleCompletion, hp, doneSending, hn]

theorem busDone_sending_last {s : State} (h : s.busy = true) (hp : s.phase = .sending) (hn : s.brem.toNat = 0) (d : Byte) :
    busDone d s = dispatch s.cont (engineIdle (delivered s)) := by
  simp [busDone, h, handleCompletion, hp, doneSending, hn, complete]

theorem busDone_receiving {s : State} (h : s.busy = true) (hp : s.phase = .receiving) (d : Byte) :
    busDone d s = armOrComplete (storeReceived d (delivered s)) := by
  simp [busDone, h, handleCompletion, hp, doneReceiving]

theorem busDone_command {s : State} (h : s.busy = true) (hp : s.phase = .command ∨ s.phase = .idle) (d : Byte) :
    busDone d s = dispatch s.cont (engineIdle (delivered s)) := by
  rcases hp with hp | hp <;> simp [busDone, h, handleCompletion, hp, complete]

/-- What BUS_DONE can do: a fault; one more byte handed over; one byte stored and the next armed; one byte stored and the step
completed; or the step completed. -/
theorem busDone_cases (d : Byte) (s : State) :
    (s.busy = false ∧ busDone d s = raiseFault .spuriousCompletion s) ∨
    (s.busy = true ∧ s.phase = .sending ∧ 0 < s.brem.toNat ∧
      busDone d s =
        { issue (.tx (memRead s s.bptr)) s with bptr := nextAddr s.bptr, brem := lessOne s.brem }) ∨
    (s.busy = true ∧ s.phase = .receiving ∧ 0 < (lessOne s.brem).toNat ∧
      busDone d s = issue (.rx (ackFor (lessOne s.brem))) (storeReceived d (delivered s))) ∨
    (s.busy = true ∧ s.phase = .receiving ∧ (lessOne s.brem).toNat = 0 ∧
      busDone d s = dispatch s.cont (engineIdle (storeReceived d (delivered s)))) ∨
    (s.busy = true ∧ s.phase ≠ .receiving ∧ (s.phase = .sending → s.brem.toNat = 0) ∧
      busDone d s = dispatch s.cont (engineIdle (delivered s))) := by
  rcases hb : s.busy
  · exact .inl ⟨rfl, busDone_idle hb d⟩
  · rcases hp : s.phase
    · exact .inr (.inr (.inr (.inr ⟨rfl, by simp, by simp, busDone_command hb (.inr hp) d⟩)))
    · exact .inr (.inr (.inr (.inr ⟨rfl, by simp, by simp, busDone_command hb (.inl hp) d⟩)))
    · rcases Nat.eq_zero_or_pos s.brem.toNat with h | h
      · exact .inr (.inr (.inr (.inr ⟨rfl, by simp, fun _ => h, busDone_sending_last hb hp h d⟩)))
      · exact .inr (.inl ⟨rfl, rfl, h, busDone_sending_more hb hp h d⟩)
    · rcases Nat.eq_zero_or_pos (lessOne s.brem).toNat with h | h
      · refine .inr (.inr (.inr (.inl ⟨rfl, rfl, h, ?_⟩)))
        rw [busDone_receiving hb hp, armOrComplete, if_neg (by simp [h])]
        rfl
      · refine .inr (.inr (.inl ⟨rfl, rfl, h, ?_⟩))
        rw [busDone_receiving hb hp, armOrComplete, if_pos (by simpa using h)]
        rfl

/-! ### One step -/

theorem nextOf_nil {s : State} (h : s.inputs = []) : nextOf s = whileEnabled s .wait := by
  unfold nextOf; rw [h]

theorem nextOf_resetFirst {s : State} {src : ResetSource} {rest : List Input} (h : s.inputs = .reset src :: rest) :
    nextOf s = .reset { s with inputs := rest } := by
  unfold nextOf; rw [h]

theorem nextOf_commandFirst {s : State} {ag : Agent} {w : CommandWord} {rest : List Input}
    (h : s.inputs = .command ag w :: rest) : nextOf s = whileEnabled s (onCommand ag w { s with inputs := rest }) := by
  unfold nextOf; rw [h]

theorem nextOf_eventFirst {s : State} {ag : Agent} {w : EventWord} {rest : List Input}
    (h : s.inputs = .event ag w :: rest) : nextOf s = whileEnabled s (onEvent ag w { s with inputs := rest }) := by
  unfold nextOf; rw [h]

/-- A step that answers a next state is a wait, a reset, or one meaning. -/
theorem step_next {s t : State} (h : step s = .next t) :
    (nextOf s = .wait ∧ t = { s with resp := none }) ∨
    (∃ u, nextOf s = .reset u ∧ t = applyReset u) ∨
    (∃ i u, nextOf s = .run i u ∧ exec i u = .next t) := by
  unfold step at h
  split at h
  · rename_i hn; cases h; exact .inl ⟨hn, rfl⟩
  · rename_i u hn; cases h; exact .inr (.inl ⟨u, hn, rfl⟩)
  · cases h
  · cases h
  · rename_i i u hn; exact .inr (.inr ⟨i, u, hn, h⟩)

/-- What a command word decodes to is FG's to present. -/
theorem presenter_of_decodeCommand {w : CommandWord} {i : Instr} (h : decodeCommand w = .instr i) :
    presenter i = some .fg := by
  unfold decodeCommand at h
  split at h
  case h_1 => obtain ⟨-, h⟩ := reservedZero_instr h; obtain ⟨t, rfl, -⟩ := withTarget_instr h; rfl
  case h_2 => obtain ⟨t, rfl, -⟩ := withTarget_instr h; rfl
  case h_3 => obtain ⟨t, rfl, -⟩ := withTarget_instr h; rfl
  case h_11 => cases h
  all_goals obtain ⟨-, h⟩ := reservedZero_instr h; cases h; rfl

/-- An instruction that FG may present is run whenever FG presents it. -/
theorem takeWord_fg {i : Instr} (h : presenter i = some .fg) (u : State) : takeWord .fg u (.instr i) = .run i u := by
  unfold takeWord
  cases i <;> first | rfl | cases h

/-- A word on a port runs or is refused. -/
theorem takeWord_form (ag : Agent) (u : State) (d : Decoded) :
    (∃ r, takeWord ag u d = .refuse r) ∨ ∃ i, takeWord ag u d = .run i u := by
  unfold takeWord
  split
  · exact .inl ⟨_, rfl⟩
  · split
    · exact .inl ⟨_, rfl⟩
    · split
      · exact .inl ⟨_, rfl⟩
      · exact .inr ⟨_, rfl⟩

theorem onCommand_form (ag : Agent) (w : CommandWord) (u : State) :
    (∃ r, onCommand ag w u = .refuse r) ∨ ∃ i, onCommand ag w u = .run i u := by
  unfold onCommand
  split
  · exact takeWord_form ag u _
  · exact .inl ⟨_, rfl⟩

theorem onEvent_form (ag : Agent) (w : EventWord) (u : State) :
    (∃ r, onEvent ag w u = .refuse r) ∨ ∃ i, onEvent ag w u = .run i u := by
  unfold onEvent
  split
  · exact takeWord_form ag u _
  · exact .inl ⟨_, rfl⟩

/-- The machine waits only where nothing is presented and it is not halted. -/
theorem nextOf_wait {s : State} (h : nextOf s = .wait) : s.inputs = [] ∧ s.halt = false := by
  unfold nextOf whileEnabled at h
  split at h
  · rename_i hi
    split at h
    · cases h
    · rename_i hh; exact ⟨hi, by simpa using hh⟩
  · cases h
  · rename_i ag w rest _
    split at h
    · cases h
    · obtain ⟨r, hr⟩ | ⟨i, hr⟩ := onCommand_form ag w { s with inputs := rest } <;> rw [hr] at h <;> cases h
  · rename_i ag w rest _
    split at h
    · cases h
    · obtain ⟨r, hr⟩ | ⟨i, hr⟩ := onEvent_form ag w { s with inputs := rest } <;> rw [hr] at h <;> cases h

/-- A reset step has the reset input first. -/
theorem nextOf_reset {s u : State} (h : nextOf s = .reset u) :
    ∃ src rest, s.inputs = .reset src :: rest ∧ u = { s with inputs := rest } := by
  unfold nextOf whileEnabled at h
  split at h
  · split at h <;> cases h
  · rename_i src rest hi
    cases h
    exact ⟨src, rest, hi, rfl⟩
  · rename_i ag w rest _
    split at h
    · cases h
    · obtain ⟨r, hr⟩ | ⟨i, hr⟩ := onCommand_form ag w { s with inputs := rest } <;> rw [hr] at h <;> cases h
  · rename_i ag w rest _
    split at h
    · cases h
    · obtain ⟨r, hr⟩ | ⟨i, hr⟩ := onEvent_form ag w { s with inputs := rest } <;> rw [hr] at h <;> cases h

theorem takeWord_run {ag : Agent} {u v : State} {d : Decoded} {i : Instr} (h : takeWord ag u d = .run i v) :
    v = u ∧ d = .instr i ∧ presenter i = some ag := by
  unfold takeWord at h
  split at h
  · cases h
  · rename_i j
    by_cases hm : mayPresent ag j = true
    · by_cases hn : nestedHandler j u = true
      · simp [hm, hn] at h
      · simp only [hm, hn, Bool.not_true, Bool.false_eq_true, if_false, Next.run.injEq] at h
        obtain ⟨rfl, rfl⟩ := h
        exact ⟨rfl, rfl, by simpa [mayPresent] using hm⟩
    · simp [hm] at h

/-- A step that runs a meaning: the machine is not halted, and the first input is the instruction's word, presented by its
agent, on its port. -/
theorem nextOf_run {s u : State} {i : Instr} (h : nextOf s = .run i u) :
    s.halt = false ∧ ∃ inp rest, s.inputs = inp :: rest ∧ u = { s with inputs := rest } ∧
      ((∃ w, inp = .command .fg w ∧ decodeCommand w = .instr i) ∨
       (∃ ag w, inp = .event ag w ∧ decodeEvent w = .instr i ∧ presenter i = some ag)) := by
  unfold nextOf whileEnabled onCommand onEvent at h
  split at h
  · split at h <;> cases h
  · cases h
  · rename_i ag w rest hi
    split at h
    · cases h
    · rename_i hh
      split at h
      · rename_i hag
        subst hag
        obtain ⟨rfl, hd, -⟩ := takeWord_run h
        exact ⟨by simpa using hh, _, rest, hi, rfl, .inl ⟨w, rfl, hd⟩⟩
      · cases h
  · rename_i ag w rest hi
    split at h
    · cases h
    · rename_i hh
      split at h
      · obtain ⟨rfl, hd, hp⟩ := takeWord_run h
        exact ⟨by simpa using hh, _, rest, hi, rfl, .inr ⟨ag, w, rfl, hd, hp⟩⟩
      · cases h

end Sys2Proof.Machine
end

