-- ==== Sys2Proof/Laws/Frames.lean ====
section
/-! SUPPORT. What each request, target and dispatch leaves as it was, in every state. -/

namespace Sys2Proof.Machine

/-! ### requestStart -/

@[simp] theorem requestStart_cfg (k : Target) (s : State) : (requestStart k s).1.cfg = s.cfg := by
  unfold requestStart; repeat' split
  all_goals rfl
@[simp] theorem requestStart_flag (k : Target) (s : State) : (requestStart k s).1.flag = s.flag := by
  unfold requestStart; repeat' split
  all_goals rfl
@[simp] theorem requestStart_mem (k : Target) (s : State) : (requestStart k s).1.mem = s.mem := by
  unfold requestStart; repeat' split
  all_goals rfl
@[simp] theorem requestStart_fill (k : Target) (s : State) : (requestStart k s).1.fill = s.fill := by
  unfold requestStart; repeat' split
  all_goals rfl
@[simp] theorem requestStart_resp (k : Target) (s : State) : (requestStart k s).1.resp = s.resp := by
  unfold requestStart; repeat' split
  all_goals rfl
@[simp] theorem requestStart_draws (k : Target) (s : State) : (requestStart k s).1.draws = s.draws := by
  unfold requestStart; repeat' split
  all_goals rfl
@[simp] theorem requestStart_inputs (k : Target) (s : State) : (requestStart k s).1.inputs = s.inputs := by
  unfold requestStart; repeat' split
  all_goals rfl
@[simp] theorem requestStart_halt (k : Target) (s : State) : (requestStart k s).1.halt = s.halt := by
  unfold requestStart; repeat' split
  all_goals rfl
@[simp] theorem requestStart_hcause (k : Target) (s : State) : (requestStart k s).1.hcause = s.hcause := by
  unfold requestStart; repeat' split
  all_goals rfl
@[simp] theorem requestStart_bptr (k : Target) (s : State) : (requestStart k s).1.bptr = s.bptr := by
  unfold requestStart; repeat' split
  all_goals rfl
@[simp] theorem requestStart_brem (k : Target) (s : State) : (requestStart k s).1.brem = s.brem := by
  unfold requestStart; repeat' split
  all_goals rfl
@[simp] theorem memRead_requestStart (k : Target) (s : State) (b : Addr) : memRead (requestStart k s).1 b = memRead s b :=
  memRead_congr b (by simp) (by simp) (by simp)
@[simp] theorem wf_requestStart (k : Target) (s : State) : Memory.wf (requestStart k s).1 = Memory.wf s :=
  wf_congr (by simp) (by simp) (by simp)

/-! ### requestSend -/

@[simp] theorem requestSend_cfg (a : Addr) (n : Count) (k : Target) (s : State) : (requestSend a n k s).1.cfg = s.cfg := by
  unfold requestSend; repeat' split
  all_goals rfl
@[simp] theorem requestSend_flag (a : Addr) (n : Count) (k : Target) (s : State) : (requestSend a n k s).1.flag = s.flag := by
  unfold requestSend; repeat' split
  all_goals rfl
@[simp] theorem requestSend_mem (a : Addr) (n : Count) (k : Target) (s : State) : (requestSend a n k s).1.mem = s.mem := by
  unfold requestSend; repeat' split
  all_goals rfl
@[simp] theorem requestSend_fill (a : Addr) (n : Count) (k : Target) (s : State) : (requestSend a n k s).1.fill = s.fill := by
  unfold requestSend; repeat' split
  all_goals rfl
@[simp] theorem requestSend_resp (a : Addr) (n : Count) (k : Target) (s : State) : (requestSend a n k s).1.resp = s.resp := by
  unfold requestSend; repeat' split
  all_goals rfl
@[simp] theorem requestSend_draws (a : Addr) (n : Count) (k : Target) (s : State) : (requestSend a n k s).1.draws = s.draws := by
  unfold requestSend; repeat' split
  all_goals rfl
@[simp] theorem requestSend_inputs (a : Addr) (n : Count) (k : Target) (s : State) : (requestSend a n k s).1.inputs = s.inputs := by
  unfold requestSend; repeat' split
  all_goals rfl
@[simp] theorem memRead_requestSend (a : Addr) (n : Count) (k : Target) (s : State) (b : Addr) : memRead (requestSend a n k s).1 b = memRead s b :=
  memRead_congr b (by simp) (by simp) (by simp)
@[simp] theorem wf_requestSend (a : Addr) (n : Count) (k : Target) (s : State) : Memory.wf (requestSend a n k s).1 = Memory.wf s :=
  wf_congr (by simp) (by simp) (by simp)

/-! ### requestRecv -/

@[simp] theorem requestRecv_cfg (a : Addr) (n : Count) (k : Target) (s : State) : (requestRecv a n k s).1.cfg = s.cfg := by
  unfold requestRecv; repeat' split
  all_goals rfl
@[simp] theorem requestRecv_flag (a : Addr) (n : Count) (k : Target) (s : State) : (requestRecv a n k s).1.flag = s.flag := by
  unfold requestRecv; repeat' split
  all_goals rfl
@[simp] theorem requestRecv_mem (a : Addr) (n : Count) (k : Target) (s : State) : (requestRecv a n k s).1.mem = s.mem := by
  unfold requestRecv; repeat' split
  all_goals rfl
@[simp] theorem requestRecv_fill (a : Addr) (n : Count) (k : Target) (s : State) : (requestRecv a n k s).1.fill = s.fill := by
  unfold requestRecv; repeat' split
  all_goals rfl
@[simp] theorem requestRecv_resp (a : Addr) (n : Count) (k : Target) (s : State) : (requestRecv a n k s).1.resp = s.resp := by
  unfold requestRecv; repeat' split
  all_goals rfl
@[simp] theorem requestRecv_draws (a : Addr) (n : Count) (k : Target) (s : State) : (requestRecv a n k s).1.draws = s.draws := by
  unfold requestRecv; repeat' split
  all_goals rfl
@[simp] theorem requestRecv_inputs (a : Addr) (n : Count) (k : Target) (s : State) : (requestRecv a n k s).1.inputs = s.inputs := by
  unfold requestRecv; repeat' split
  all_goals rfl
@[simp] theorem memRead_requestRecv (a : Addr) (n : Count) (k : Target) (s : State) (b : Addr) : memRead (requestRecv a n k s).1 b = memRead s b :=
  memRead_congr b (by simp) (by simp) (by simp)
@[simp] theorem wf_requestRecv (a : Addr) (n : Count) (k : Target) (s : State) : Memory.wf (requestRecv a n k s).1 = Memory.wf s :=
  wf_congr (by simp) (by simp) (by simp)

/-! ### requestStop -/

@[simp] theorem requestStop_cfg (s : State) : (requestStop s).1.cfg = s.cfg := by
  unfold requestStop; repeat' split
  all_goals rfl
@[simp] theorem requestStop_flag (s : State) : (requestStop s).1.flag = s.flag := by
  unfold requestStop; repeat' split
  all_goals rfl
@[simp] theorem requestStop_mem (s : State) : (requestStop s).1.mem = s.mem := by
  unfold requestStop; repeat' split
  all_goals rfl
@[simp] theorem requestStop_fill (s : State) : (requestStop s).1.fill = s.fill := by
  unfold requestStop; repeat' split
  all_goals rfl
@[simp] theorem requestStop_resp (s : State) : (requestStop s).1.resp = s.resp := by
  unfold requestStop; repeat' split
  all_goals rfl
@[simp] theorem requestStop_draws (s : State) : (requestStop s).1.draws = s.draws := by
  unfold requestStop; repeat' split
  all_goals rfl
@[simp] theorem requestStop_inputs (s : State) : (requestStop s).1.inputs = s.inputs := by
  unfold requestStop; repeat' split
  all_goals rfl
@[simp] theorem requestStop_halt (s : State) : (requestStop s).1.halt = s.halt := by
  unfold requestStop; repeat' split
  all_goals rfl
@[simp] theorem requestStop_hcause (s : State) : (requestStop s).1.hcause = s.hcause := by
  unfold requestStop; repeat' split
  all_goals rfl
@[simp] theorem requestStop_bptr (s : State) : (requestStop s).1.bptr = s.bptr := by
  unfold requestStop; repeat' split
  all_goals rfl
@[simp] theorem requestStop_brem (s : State) : (requestStop s).1.brem = s.brem := by
  unfold requestStop; repeat' split
  all_goals rfl
@[simp] theorem memRead_requestStop (s : State) (b : Addr) : memRead (requestStop s).1 b = memRead s b :=
  memRead_congr b (by simp) (by simp) (by simp)
@[simp] theorem wf_requestStop (s : State) : Memory.wf (requestStop s).1 = Memory.wf s :=
  wf_congr (by simp) (by simp) (by simp)

/-! ### VALIDATE -/

@[simp] theorem validate_flag (s : State) : (validate s).flag = true := rfl

@[simp] theorem validate_cfg (s : State) : (validate s).cfg = s.cfg := by
  unfold validate writeBack
  rw [repaired_eq]
  split <;> simp [requestWrrtc]
@[simp] theorem validate_fill (s : State) : (validate s).fill = s.fill := by
  unfold validate writeBack
  rw [repaired_eq]
  split <;> simp [requestWrrtc]
@[simp] theorem validate_resp (s : State) : (validate s).resp = s.resp := by
  unfold validate writeBack
  rw [repaired_eq]
  split <;> simp [requestWrrtc]
@[simp] theorem validate_draws (s : State) : (validate s).draws = s.draws := by
  unfold validate writeBack
  rw [repaired_eq]
  split <;> simp [requestWrrtc]
@[simp] theorem validate_inputs (s : State) : (validate s).inputs = s.inputs := by
  unfold validate writeBack
  rw [repaired_eq]
  split <;> simp [requestWrrtc]
@[simp] theorem validate_halt (s : State) : (validate s).halt = s.halt := by
  unfold validate writeBack
  rw [repaired_eq]
  split <;> simp [requestWrrtc]
@[simp] theorem validate_hcause (s : State) : (validate s).hcause = s.hcause := by
  unfold validate writeBack
  rw [repaired_eq]
  split <;> simp [requestWrrtc]
@[simp] theorem validate_bptr (s : State) : (validate s).bptr = s.bptr := by
  unfold validate writeBack
  rw [repaired_eq]
  split <;> simp [requestWrrtc]
@[simp] theorem validate_brem (s : State) : (validate s).brem = s.brem := by
  unfold validate writeBack
  rw [repaired_eq]
  split <;> simp [requestWrrtc]

/-- VALIDATE changes the memory as the two corrections do. -/
theorem memRead_validate (s : State) (a : Addr) : memRead (validate s) a = memRead (repairControl (repairSeconds s)) a := by
  unfold validate writeBack
  split <;> simp [requestWrrtc]

theorem validate_wf {s : State} (h : Memory.wf s = true) : Memory.wf (validate s) = true := by
  unfold validate writeBack
  split <;> simp [requestWrrtc, repaired_wf h]

/-! ### Dispatch -/

/-- A request of a target, in an engine idle or busy: its count is not 0 and its buffer passes the range check (R153). -/
theorem requestSend_noFault {s : State} {a : Addr} {n : Count} (hr : sendOk a n = true) (k : Target) :
    (requestSend a n k s).1.halt = s.halt ∧ (requestSend a n k s).1.hcause = s.hcause := by
  rcases requestSend_cases a n k s with ⟨-, h⟩ | ⟨-, -, h⟩ | ⟨-, -, h, -⟩ | ⟨-, -, -, h⟩
  · simp [h]
  · simp [h]
  · simp [hr] at h
  · simp [h]

theorem requestRecv_noFault {s : State} {a : Addr} {n : Count} (hr : recvOk a n = true) (k : Target) :
    (requestRecv a n k s).1.halt = s.halt ∧ (requestRecv a n k s).1.hcause = s.hcause := by
  rcases requestRecv_cases a n k s with ⟨-, h⟩ | ⟨-, -, h⟩ | ⟨-, -, h, -⟩ | ⟨-, -, -, h⟩
  · simp [h]
  · simp [h]
  · simp [hr] at h
  · simp [h]

@[simp] theorem dispatch_cfg (k : Target) (s : State) : (dispatch k s).cfg = s.cfg := by
  cases k <;> simp [dispatch, actNone, actRdAddr, actRdRestart, actRdDevread, actRdRecv, actRdFinish, actWrAddr, actWrData,
    actWrFinish]
@[simp] theorem dispatch_fill (k : Target) (s : State) : (dispatch k s).fill = s.fill := by
  cases k <;> simp [dispatch, actNone, actRdAddr, actRdRestart, actRdDevread, actRdRecv, actRdFinish, actWrAddr, actWrData,
    actWrFinish]
@[simp] theorem dispatch_resp (k : Target) (s : State) : (dispatch k s).resp = s.resp := by
  cases k <;> simp [dispatch, actNone, actRdAddr, actRdRestart, actRdDevread, actRdRecv, actRdFinish, actWrAddr, actWrData,
    actWrFinish]
@[simp] theorem dispatch_draws (k : Target) (s : State) : (dispatch k s).draws = s.draws := by
  cases k <;> simp [dispatch, actNone, actRdAddr, actRdRestart, actRdDevread, actRdRecv, actRdFinish, actWrAddr, actWrData,
    actWrFinish]
@[simp] theorem dispatch_inputs (k : Target) (s : State) : (dispatch k s).inputs = s.inputs := by
  cases k <;> simp [dispatch, actNone, actRdAddr, actRdRestart, actRdDevread, actRdRecv, actRdFinish, actWrAddr, actWrData,
    actWrFinish]
@[simp] theorem dispatch_halt (k : Target) (s : State) : (dispatch k s).halt = s.halt := by
  cases k with
  | none => rfl
  | rdAddr => exact (requestSend_noFault (by decide) _).1
  | rdRestart => exact requestStart_halt _ _
  | rdDevread => exact (requestSend_noFault (by decide) _).1
  | rdRecv => exact (requestRecv_noFault (by decide) _).1
  | rdFinish => simp [dispatch, actRdFinish]
  | wrAddr => exact (requestSend_noFault (by decide) _).1
  | wrData => exact (requestSend_noFault (by decide) _).1
  | wrFinish => exact requestStop_halt _
@[simp] theorem dispatch_hcause (k : Target) (s : State) : (dispatch k s).hcause = s.hcause := by
  cases k with
  | none => rfl
  | rdAddr => exact (requestSend_noFault (by decide) _).2
  | rdRestart => exact requestStart_hcause _ _
  | rdDevread => exact (requestSend_noFault (by decide) _).2
  | rdRecv => exact (requestRecv_noFault (by decide) _).2
  | rdFinish => simp [dispatch, actRdFinish]
  | wrAddr => exact (requestSend_noFault (by decide) _).2
  | wrData => exact (requestSend_noFault (by decide) _).2
  | wrFinish => exact requestStop_hcause _

/-- Dispatch writes FLAG only in RD_FINISH. -/
theorem dispatch_flag {k : Target} (h : k ≠ .rdFinish) (s : State) : (dispatch k s).flag = s.flag := by
  cases k <;> first | exact absurd rfl h |
    simp [dispatch, actNone, actRdAddr, actRdRestart, actRdDevread, actRdRecv, actWrAddr, actWrData, actWrFinish]

theorem dispatch_rdFinish_flag (s : State) : (dispatch .rdFinish s).flag = true := rfl

/-- Dispatch writes the memory only in RD_FINISH. -/
theorem memRead_dispatch {k : Target} (h : k ≠ .rdFinish) (s : State) (a : Addr) :
    memRead (dispatch k s) a = memRead s a := by
  cases k <;> first | exact absurd rfl h |
    simp [dispatch, actNone, actRdAddr, actRdRestart, actRdDevread, actRdRecv, actWrAddr, actWrData, actWrFinish]

/-- RD_FINISH writes no byte outside the register block. -/
theorem memRead_dispatch_rdFinish (s : State) {a : Addr} (h : 8 ≤ a.toNat) :
    memRead (dispatch .rdFinish s) a = memRead s a := by
  have h7 : a ≠ 0x07#8 := by rintro rfl; simp at h
  simp only [dispatch, actRdFinish]
  rw [memRead_validate, memRead_repaired, if_neg h7]
  split
  · rw [dif_neg (by omega)]; simp
  · simp

theorem dispatch_wf (k : Target) {s : State} (h : Memory.wf s = true) : Memory.wf (dispatch k s) = true := by
  cases k <;> simp [dispatch, actNone, actRdAddr, actRdRestart, actRdDevread, actRdRecv, actRdFinish, actWrAddr, actWrData,
    actWrFinish, h]
  exact validate_wf (by simpa using h)

end Sys2Proof.Machine
end

