-- ==== Sys2Proof/Laws/PerInstr.lean ====
section
/-! SUPPORT. Per instruction: the encoded word stands on the port of the instruction's row of spec/opcode_table.json and holds
the row's fixed fields (its match value under its mask). -/

namespace Sys2Proof.Laws.TableRow

/-- A command word with these fixed fields; a field given as none is an operand. -/
def commandRow (op : Nibble) (k : Option Nibble) (n a : Option Byte) : PortWord → Prop
  | .command w => w.op = op ∧ (∀ v ∈ k, w.k = v) ∧ (∀ v ∈ n, w.n = v) ∧ (∀ v ∈ a, w.a = v)
  | .event _ => False
  | .target _ => False

/-- An event word with these fixed fields. -/
def eventRow (ev : Nibble) (d : Option Byte) : PortWord → Prop
  | .command _ => False
  | .event w => w.ev = ev ∧ ∀ v ∈ d, w.d = v
  | .target _ => False

/-- A continuation identifier. -/
def targetRow (k : Nibble) : PortWord → Prop
  | .command _ => False
  | .event _ => False
  | .target w => w = k

/-- The row of the opcode table. -/
def row : Instr → PortWord → Prop
  | .start _ => commandRow 0x1 none (some 0) (some 0)
  | .send _ _ _ => commandRow 0x2 none none none
  | .recv _ _ _ => commandRow 0x3 none none none
  | .stop => commandRow 0x4 (some 0) (some 0) (some 0)
  | .rdrtc => commandRow 0x5 (some 0) (some 0) (some 0)
  | .wrrtc => commandRow 0x6 (some 0) (some 0) (some 0)
  | .flgclr => commandRow 0x7 (some 0) (some 0) (some 0)
  | .status => commandRow 0x8 (some 0) (some 0) (some 0)
  | .memrd _ => commandRow 0x9 (some 0) (some 0) none
  | .memwr _ _ => commandRow 0xA (some 0) none none
  | .busDone _ => eventRow 0x1 none
  | .trig => eventRow 0x2 (some 0)
  | .kNone => targetRow 0x0
  | .kRdAddr => targetRow 0x1
  | .kRdRestart => targetRow 0x2
  | .kRdDevread => targetRow 0x3
  | .kRdRecv => targetRow 0x4
  | .kRdFinish => targetRow 0x5
  | .kWrAddr => targetRow 0x6
  | .kWrData => targetRow 0x7
  | .kWrFinish => targetRow 0x8

/-- The instruction's encoded word fits its row. -/
def Statement (i : Instr) : Prop :=
  row i (encode i)

theorem start (k : Target) : Statement (.start k) := by simp [Statement, row, commandRow, encode]
theorem send (a : Addr) (n : Count) (k : Target) : Statement (.send a n k) := by
  simp [Statement, row, commandRow, encode]
theorem recv (a : Addr) (n : Count) (k : Target) : Statement (.recv a n k) := by
  simp [Statement, row, commandRow, encode]
theorem stop : Statement .stop := by simp [Statement, row, commandRow, encode]
theorem rdrtc : Statement .rdrtc := by simp [Statement, row, commandRow, encode]
theorem wrrtc : Statement .wrrtc := by simp [Statement, row, commandRow, encode]
theorem flgclr : Statement .flgclr := by simp [Statement, row, commandRow, encode]
theorem status : Statement .status := by simp [Statement, row, commandRow, encode]
theorem memrd (a : Addr) : Statement (.memrd a) := by simp [Statement, row, commandRow, encode]
theorem memwr (a : Addr) (v : Byte) : Statement (.memwr a v) := by simp [Statement, row, commandRow, encode]
theorem busDone (d : Byte) : Statement (.busDone d) := by simp [Statement, row, eventRow, encode]
theorem trig : Statement .trig := by simp [Statement, row, eventRow, encode]
theorem kNone : Statement .kNone := rfl
theorem kRdAddr : Statement .kRdAddr := rfl
theorem kRdRestart : Statement .kRdRestart := rfl
theorem kRdDevread : Statement .kRdDevread := rfl
theorem kRdRecv : Statement .kRdRecv := rfl
theorem kRdFinish : Statement .kRdFinish := rfl
theorem kWrAddr : Statement .kWrAddr := rfl
theorem kWrData : Statement .kWrData := rfl
theorem kWrFinish : Statement .kWrFinish := rfl

end Sys2Proof.Laws.TableRow
end

