-- ==== Sys2Proof/Tests/Slice0.lean ====
section
/-! SUPPORT. Tests: words written out from the encoding rules, the checks refusing ill-formed terms, the hand-derived vectors of
95_test_vectors.md, one step each, and for every statement with hypotheses a state that meets them. -/

open Sys2Proof Sys2Proof.Machine

namespace Sys2Proof.Tests

/-! ### Small states -/

/-- The test values of the parameters (95_test_vectors.md), the switches at their decided values (00_scope.md R11). -/
def cfg : Config :=
  ⟨0xD0, 0xD1, 0x10, #v[0x00, 0x39, 0x13, 0x03, 0x28, 0x10, 0x13], false, false, false⟩

/-- A state as after reset, with one filling of REGBLK and RAM, and with inputs to come. -/
def idle (inputs : List Input := []) : State :=
  ⟨cfg, false, .idle, .none, 0, 0, false, false, .none, [], Vector.replicate 256 0, none, [], none, 1, inputs⟩

/-- A start condition in flight, with its target. -/
def starting (k : Target) : State :=
  { idle with busy := true, phase := .command, cont := k, outst := some .start, bh := [.start] }

/-- A SEND in flight: the next address and the bytes not yet handed over. -/
def sending (k : Target) (p : Addr) (r : Count) : State :=
  { idle with busy := true, phase := .sending, cont := k, bptr := p, brem := r, outst := some (.tx 0), bh := [.tx 0] }

/-- A RECV in flight: the next address and the bytes not yet stored. -/
def receiving (k : Target) (p : Addr) (r : Count) : State :=
  { idle with
    busy := true, phase := .receiving, cont := k, bptr := p, brem := r, outst := some (.rx (ackFor r)),
    bh := [.rx (ackFor r)] }

/-- The halted block. -/
def halted (inputs : List Input := []) : State :=
  { idle inputs with halt := true, hcause := .bufferRange }

/-- The register block holding these bytes. -/
def holding (s : State) (bytes : List Byte) : State :=
  memWriteAll s ((List.range bytes.length).map (fun i => BitVec.ofNat 8 i) |>.zip bytes)

/-- The status word, the history and the response of a next state. -/
def view : Host.Outcome State Fault Refusal → Option (BitVec 16 × List BusOp × Option Response)
  | .next t => some (statusWord t, t.bh, t.resp)
  | _ => none

/-- The cursor of a next state. -/
def cursor : Host.Outcome State Fault Refusal → Option (Addr × Count)
  | .next t => some (t.bptr, t.brem)
  | _ => none

/-- HALT, HCAUSE and the history of a next state. -/
def fault : Host.Outcome State Fault Refusal → Option (Bool × Cause × List BusOp)
  | .next t => some (t.halt, t.hcause, t.bh)
  | _ => none

/-- A byte of a next state. -/
def byteAt (a : Addr) : Host.Outcome State Fault Refusal → Option Byte
  | .next t => some (memRead t a)
  | _ => none

/-- The register block of a next state. -/
def block : Host.Outcome State Fault Refusal → Option (List Byte)
  | .next t => some ((List.range 8).map fun i => memRead t (BitVec.ofNat 8 i))
  | _ => none

/-- The refusal a step answers. -/
def refusal : Host.Outcome State Fault Refusal → Option Refusal
  | .refused r => some r
  | _ => none

/-! ### Words written out from the encoding -/

/-- R70, R75: A = 0, N = 0, K = 1, OP = 1. -/
theorem test_decode_start : decodeCommand 0b00000000_00000000_0001_0001#24 = .instr (.start .rdAddr) := by decide

/-- R75. -/
theorem test_decode_send : decodeCommand 0b00001000_00000010_0010_0010#24 = .instr (.send 0x08 2 .rdRestart) := by decide

/-- R75. -/
theorem test_decode_recv : decodeCommand 0b00000000_00001000_0101_0011#24 = .instr (.recv 0x00 8 .rdFinish) := by decide

/-- R73. -/
theorem test_decode_stop : decodeCommand 0b00000000_00000000_0000_0100#24 = .instr .stop := by decide

/-- R73. -/
theorem test_decode_rdrtc : decodeCommand 0b00000000_00000000_0000_0101#24 = .instr .rdrtc := by decide

/-- R73. -/
theorem test_decode_wrrtc : decodeCommand 0b00000000_00000000_0000_0110#24 = .instr .wrrtc := by decide

/-- R73. -/
theorem test_decode_flgclr : decodeCommand 0b00000000_00000000_0000_0111#24 = .instr .flgclr := by decide

/-- R73. -/
theorem test_decode_status : decodeCommand 0b00000000_00000000_0000_1000#24 = .instr .status := by decide

/-- R75. -/
theorem test_decode_memrd : decodeCommand 0b00000010_00000000_0000_1001#24 = .instr (.memrd 0x02) := by decide

/-- R75. -/
theorem test_decode_memwr : decodeCommand 0b00100000_10100101_0000_1010#24 = .instr (.memwr 0x20 0xA5) := by decide

/-- R78, vector B4: D above EV = 1. -/
theorem test_decode_bus_done : decodeEvent 0b01011010_0001#12 = .instr (.busDone 0x5A) := by decide

/-- R78. -/
theorem test_decode_trig : decodeEvent 0b00000000_0010#12 = .instr .trig := by decide

/-- R80: 0 to 8 name the targets in the order of the table, 9 to F none. -/
theorem test_decode_targets : (List.range 16).map (fun i => (decodeTarget (BitVec.ofNat 4 i)).instr?) =
    [some .kNone, some .kRdAddr, some .kRdRestart, some .kRdDevread, some .kRdRecv, some .kRdFinish, some .kWrAddr,
      some .kWrData, some .kWrFinish, none, none, none, none, none, none, none] := by decide

/-- R73, R78, R80. -/
theorem test_encode_examples : encode (.send 0x08 2 .rdRestart) = .command 0x080222#24 ∧ encode (.busDone 0x5A) = .event 0x5A1#12 ∧
    encode .kWrFinish = .target 0x8#4 := by decide

/-- Vectors H9, H10. -/
theorem test_refuse_opcode : decodeCommand 0x000000#24 = .refuse .reservedOpcode ∧ decodeCommand 0x00000B#24 = .refuse .reservedOpcode ∧
    decodeCommand 0x00000F#24 = .refuse .reservedOpcode := by decide

/-- Vectors S5, P4v, H11; K of MEMWR (R82). -/
theorem test_refuse_field : decodeCommand 0x010001#24 = .refuse .reservedField ∧ decodeCommand 0x000014#24 = .refuse .reservedField ∧
    decodeCommand 0x020109#24 = .refuse .reservedField ∧ decodeCommand 0x20A51A#24 = .refuse .reservedField := by decide

/-- Vector S4; the fields are checked before K (R74). -/
theorem test_refuse_continuation : decodeCommand 0x000091#24 = .refuse .reservedContinuation ∧
    decodeCommand 0x0100F1#24 = .refuse .reservedField := by decide

/-- Vectors B5, B6. -/
theorem test_refuse_event : decodeEvent 0x003#12 = .refuse .reservedEvent ∧ decodeEvent 0x012#12 = .refuse .reservedField := by decide

/-- Log entry 6. -/
theorem test_table_words : decodeTableWord 24 0x000011 = some (.start .rdAddr) ∧ decodeTableWord 24 0x20A50A = some (.memwr 0x20 0xA5) ∧
    decodeTableWord 16 0x5A1 = some (.busDone 0x5A) ∧ decodeTableWord 8 0x5 = some .kRdFinish ∧
    decodeTableWord 24 0x00000B = none := by decide

/-- R77, program P4. -/
theorem test_memfill : expandMemfill 0x20 [0xA5, 0x5A] = some [.memwr 0x20 0xA5, .memwr 0x21 0x5A] ∧
    expandMemfill 0xFF [0x01] = some [.memwr 0xFF 0x01] := by decide

/-- R77. -/
theorem test_sendn_assembly : assembly (expandSendn 0x20 2) = some "SEND 32, 2, NONE" := by decide

/-! ### The checks refuse what is ill-formed -/

/-- R7: 0xD0 and 0xD1 differ in one bit. -/
theorem test_config_wellFormed : cfg.wellFormed = true := by decide

/-- R7: no bit differs. -/
theorem test_config_same_refused : { cfg with devRaddr := 0xD0 }.wellFormed = false := by decide

/-- R7: two bits differ. -/
theorem test_config_two_bits_refused : { cfg with devRaddr := 0xD3 }.wellFormed = false := by decide

/-- R77: 0x0A lies below 0x0B. -/
theorem test_memfill_low_refused : expandMemfill 0x0A [0x00] = none := by decide

/-- R77: the range passes 0xFF. -/
theorem test_memfill_high_refused : expandMemfill 0xFF [0x00, 0x00] = none := by decide

/-- A cell as unlisted, a ROM cell, falling keys; then a good list. -/
theorem test_memory_form_refused : Memory.wf { idle with mem := [(0x30, 0)] } = false ∧ Memory.wf { idle with mem := [(0x08, 1)] } = false ∧
    Memory.wf { idle with mem := [(0x31, 1), (0x30, 1)] } = false ∧ Memory.wf { idle with mem := [(0x30, 1), (0x31, 1)] } = true := by decide

/-! ### Commands -/

/-- Vector S1. -/
theorem test_start : view (exec (.start .rdAddr) idle) = some (0x13, [.start], some (.bit 1)) := by decide

/-- Vector S2. -/
theorem test_start_busy : view (exec (.start .none) (starting .rdAddr)) = some (0x13, [.start], some (.bit 0)) := by decide

/-- Vectors T9, T6. -/
theorem test_send : view (exec (.send 0x08 3 .none) idle) = some (0x05, [.tx 0xD0], some (.bit 1)) ∧
    cursor (exec (.send 0xFF 1 .none) idle) = some (0x00, 0) := by decide

/-- Vector T7. -/
theorem test_send_range : fault (exec (.send 0xFF 2 .none) idle) = some (true, .bufferRange, []) := by decide

/-- Vector R1; R4's address with two bytes. -/
theorem test_recv : view (exec (.recv 0x30 1 .none) idle) = some (0x07, [.rx false], some (.bit 1)) ∧
    view (exec (.recv 0x0B 2 .none) idle) = some (0x07, [.rx true], some (.bit 1)) := by decide

/-- Vectors R3, R8. -/
theorem test_recv_range : fault (exec (.recv 0x05 4 .none) idle) = some (true, .bufferRange, []) ∧
    fault (exec (.recv 0xF8 9 .none) idle) = some (true, .bufferRange, []) := by decide

/-- W3; R103 in the busy engine, at an address RECV may not write. -/
theorem test_zero_count : view (exec (.send 0x20 0 .rdAddr) idle) = some (0x00, [], some (.bit 1)) ∧
    view (exec (.recv 0x08 0 .none) (starting .rdAddr)) = some (0x13, [.start], some (.bit 1)) := by decide

/-- Vector P1v. -/
theorem test_stop : view (exec .stop idle) = some (0x00, [.stop], some (.bit 1)) := by decide

/-- Vector P2v. -/
theorem test_stop_busy : view (exec .stop (starting .rdAddr)) = some (0x13, [.start], some (.bit 0)) := by decide

/-- R142. -/
theorem test_rdrtc : view (exec .rdrtc idle) = some (0x13, [.start], some (.bit 1)) := by decide

/-- R143. -/
theorem test_wrrtc : view (exec .wrrtc idle) = some (0x63, [.start], some (.bit 1)) := by decide

/-- Vector H1. -/
theorem test_flgclr : view (exec .flgclr { idle with flag := true }) = some (0x00, [], some (.bit 1)) := by decide

/-- The status word of program P2, input 14. -/
theorem test_status : view (exec .status { starting .wrAddr with flag := true }) =
    some (0x6B, [.start], some (.word 0x006B)) := by decide

/-- Vector H6; CMDR. -/
theorem test_memrd : view (exec (.memrd 0x08) idle) = some (0x00, [], some (.byte 0xD0)) ∧
    view (exec (.memrd 0x0A) idle) = some (0x00, [], some (.byte 0xD1)) := by decide

/-- Vector H5. -/
theorem test_memwr : byteAt 0x0B (exec (.memwr 0x0B 0x77) idle) = some 0x77 ∧ byteAt 0x0C (exec (.memwr 0x0B 0x77) idle) = some 0x00 := by decide

/-- Vector H4; the last protected address. -/
theorem test_memwr_protected : fault (exec (.memwr 0x07 0x10) idle) = some (true, .protectedWrite, []) ∧
    fault (exec (.memwr 0x0A 0x10) idle) = some (true, .protectedWrite, []) := by decide

/-! ### Events -/

/-- Vector B1. -/
theorem test_bus_done_spurious : fault (exec (.busDone 0x00) idle) = some (true, .spuriousCompletion, []) := by decide

/-- Program P1, input 3; vector T4b. -/
theorem test_bus_done_sending : view (exec (.busDone 0x00) (sending .rdRestart 0x09 1)) = some (0x25, [.tx 0, .tx 0x00], none) ∧
    view (exec (.busDone 0x00) (sending .none 0x21 0)) = some (0x00, [.tx 0], none) := by decide

/-- Vector R2. -/
theorem test_bus_done_receiving : view (exec (.busDone 0x11) (receiving .none 0x30 2)) = some (0x07, [.rx true, .rx false], none) ∧
    byteAt 0x31 (exec (.busDone 0x22) (receiving .none 0x31 1)) = some 0x22 := by decide

/-- Vector H7. -/
theorem test_trig : view (exec .trig idle) = some (0x13, [.start], none) := by decide

/-- Vector H8. -/
theorem test_trig_busy : view (exec .trig (receiving .rdFinish 0x00 8)) = some (0x57, [.rx true], none) := by decide

/-- R190 with TRIGGER_SETS_FLAG. -/
theorem test_trig_sets_flag : view (exec .trig { idle with cfg := { cfg with triggerSetsFlag := true } }) = some (0x1B, [.start], none) := by decide

/-! ### Continuation targets, through the completion that dispatches them -/

/-- Vector S3. -/
theorem test_k_none : view (exec (.busDone 0x5A) (starting .none)) = some (0x00, [.start], none) := by decide

/-- Vectors B4, K1. -/
theorem test_k_rd_addr : view (exec (.busDone 0x5A) (starting .rdAddr)) = some (0x25, [.start, .tx 0xD0], none) := by decide

/-- Vector K2. -/
theorem test_k_rd_restart : view (exec (.busDone 0x5A) (sending .rdRestart 0x0A 0)) = some (0x33, [.tx 0, .start], none) := by decide

/-- Vector K3. -/
theorem test_k_rd_devread : view (exec (.busDone 0x5A) (starting .rdDevread)) = some (0x45, [.start, .tx 0xD1], none) := by decide

/-- Vector K4. -/
theorem test_k_rd_recv : view (exec (.busDone 0x5A) (sending .rdRecv 0x0B 0)) = some (0x57, [.tx 0, .rx true], none) := by decide

/-- Vector K6. -/
theorem test_k_wr_addr : view (exec (.busDone 0x5A) (starting .wrAddr)) = some (0x75, [.start, .tx 0xD0], none) := by decide

/-- Vector K7. -/
theorem test_k_wr_data : view (exec (.busDone 0x5A) (sending .wrData 0x0A 0)) = some (0x85, [.tx 0, .tx 0], none) := by decide

/-- Vector K8. -/
theorem test_k_wr_finish : view (exec (.busDone 0x5A) (sending .wrFinish 0x08 0)) = some (0x00, [.tx 0, .stop], none) := by decide

/-- Vectors K1, K3, K4, K6, K7. -/
theorem test_k_cursors : cursor (exec .kRdAddr idle) = some (0x09, 1) ∧ cursor (exec .kRdDevread idle) = some (0x0B, 0) ∧
    cursor (exec .kRdRecv idle) = some (0x00, 8) ∧ cursor (exec .kWrAddr idle) = some (0x09, 1) ∧
    cursor (exec .kWrData idle) = some (0x01, 7) := by decide

/-- Vectors V1, K5, V4. -/
theorem test_validate_valid : view (exec .kRdFinish (holding idle [0x45, 0x30, 0x12, 0x02, 0x15, 0x06, 0x24, 0x10])) = some (0x08, [.stop], none) ∧
    block (exec .kRdFinish (holding idle [0x7F, 0x59, 0x23, 0x07, 0x31, 0x12, 0x99, 0x10])) =
      some [0x7F, 0x59, 0x23, 0x07, 0x31, 0x12, 0x99, 0x10] := by decide

/-- Vectors V2, V5. -/
theorem test_validate_seconds : view (exec .kRdFinish (holding idle [0x80, 0x00, 0x00, 0x01, 0x01, 0x01, 0x00, 0x00])) =
      some (0x6B, [.stop, .start], none) ∧
    block (exec .kRdFinish (holding idle [0xFF, 0xFF, 0xFF, 0xFF, 0xFF, 0xFF, 0xFF, 0xFF])) =
      some [0x00, 0x39, 0x13, 0x03, 0x28, 0x10, 0x13, 0x10] := by decide

/-- Vector V3. -/
theorem test_validate_control : block (exec .kRdFinish (holding idle [0x12, 0x34, 0x08, 0x05, 0x17, 0x03, 0x26, 0x00])) =
    some [0x12, 0x34, 0x08, 0x05, 0x17, 0x03, 0x26, 0x10] := by decide

/-! ### Steps -/

/-- Vector S1. -/
theorem test_step_command : view (step (idle [.command .fg 0x000011])) = some (0x13, [.start], some (.bit 1)) := by decide

/-- Vector B1. -/
theorem test_step_bus_done : fault (step (idle [.event .bc 0x001])) = some (true, .spuriousCompletion, []) := by decide

/-- R212. -/
theorem test_step_agents : refusal (step (idle [.command .trg 0x000011])) = some .contextViolation ∧
    refusal (step (idle [.event .trg 0x001])) = some .contextViolation ∧
    refusal (step (idle [.event .bc 0x002])) = some .contextViolation ∧
    refusal (step (idle [.event .fg 0x002])) = some .contextViolation := by decide

/-- Vector B2, program P5. -/
theorem test_step_halted : step (halted [.command .fg 0x000008]) = .fault (.halted .bufferRange) ∧
    step (halted [.event .trg 0x002]) = .fault (.halted .bufferRange) := ⟨rfl, rfl⟩

/-- Vector B3; a reset in the middle of a chain (R225). -/
theorem test_step_reset : view (step { starting .rdAddr with inputs := [.reset .watchdog] }) = some (0x0000, [], none) ∧
    fault (step (halted [.reset .watchdog])) = some (false, .none, []) := by decide

/-- Log entry 10. -/
theorem test_step_nested_refused : refusal (step { idle [.event .trg 0x002] with cfg := { cfg with irqNesting := true } }) = some .nestedHandlers := by decide

/-- Log entry 6. -/
theorem test_placed_words : view (step (idle.withFetchWord 24 0x000011)) = some (0x13, [.start], some (.bit 1)) ∧
    view (step (idle.withFetchWord 16 0x002)) = some (0x13, [.start], none) ∧
    view (step (idle.withFetchWord 8 0x1)) = some (0x25, [.tx 0xD0], none) := by decide

/-- R192. -/
theorem test_foreground : ForegroundAt.sample.after (some (.word 0x0008)) = .readHours ∧ ForegroundAt.sample.after (some (.word 0x0007)) = .sample ∧
    ForegroundAt.readHours.command = .memrd 0x02 := by decide

/-! ### States that meet the hypotheses of the statements -/

theorem witness_encodeOfDecode :
    decode (.command 0x080222) = .instr (.send 0x08 2 .rdRestart) := by decide

theorem witness_stepRunsCommand :
    (idle [.command .fg 0x080222]).halt = false ∧ (idle [.command .fg 0x080222]).inputs = .command .fg 0x080222 :: [] ∧
      decodeCommand 0x080222 = .instr (.send 0x08 2 .rdRestart) := by decide

theorem witness_stepRunsEvent :
    (idle [.event .bc 0xFF1]).halt = false ∧ (idle [.event .bc 0xFF1]).cfg.irqNesting = false ∧
      (idle [.event .bc 0xFF1]).inputs = .event .bc 0xFF1 :: [] ∧ decodeEvent 0xFF1 = .instr (.busDone 0xFF) ∧
      (idle [.event .trg 0x002]).inputs = .event .trg 0x002 :: [] ∧ decodeEvent 0x002 = .instr .trig := by decide

theorem witness_blockWaits :
    idle.halt = false ∧ idle.inputs = [] := by decide

theorem witness_reservedOpcode :
    (idle [.command .fg 0x000000]).halt = false ∧ CommandWord.op 0x000000 = 0x0#4 ∧ 0xB ≤ (CommandWord.op 0x00000B).toNat ∧
      0xB ≤ (CommandWord.op 0x00000F).toNat ∧ (idle [.command .fg 0x00000B]).inputs = .command .fg 0x00000B :: [] := by decide

theorem witness_reservedField :
    (CommandWord.op 0x010001 = 0x1#4 ∧ CommandWord.a 0x010001 ≠ 0#8) ∧
      (4 ≤ (CommandWord.op 0x000014).toNat ∧ (CommandWord.op 0x000014).toNat ≤ 8 ∧ CommandWord.k 0x000014 ≠ 0#4) ∧
      (4 ≤ (CommandWord.op 0x000108).toNat ∧ (CommandWord.op 0x000108).toNat ≤ 8 ∧ CommandWord.n 0x000108 ≠ 0#8) ∧
      (CommandWord.op 0x020109 = 0x9#4 ∧ CommandWord.n 0x020109 ≠ 0#8) ∧
      (CommandWord.op 0x20A51A = 0xA#4 ∧ CommandWord.k 0x20A51A ≠ 0#4) ∧
      (idle [.command .fg 0x010001]).inputs = .command .fg 0x010001 :: [] ∧ (idle [.command .fg 0x010001]).halt = false := by decide

theorem witness_reservedEvent :
    EventWord.ev 0x000 = 0x0#4 ∧ 3 ≤ (EventWord.ev 0x003).toNat ∧ 3 ≤ (EventWord.ev 0x00F).toNat ∧
      (EventWord.ev 0x012 = 0x2#4 ∧ EventWord.d 0x012 ≠ 0#8) ∧
      (idle [.event .bc 0x003]).inputs = .event .bc 0x003 :: [] ∧ (idle [.event .trg 0x012]).inputs = .event .trg 0x012 :: [] ∧
      (idle [.event .bc 0x003]).halt = false := by decide

theorem witness_reservedContinuation :
    9 ≤ (CommandWord.k 0x000091).toNat ∧
      (CommandWord.op 0x000091 = 0x1#4 ∧ CommandWord.a 0x000091 = 0#8 ∧ CommandWord.n 0x000091 = 0#8) ∧
      (9 ≤ (CommandWord.k 0x2001F2).toNat ∧ CommandWord.op 0x2001F2 = 0x2#4) ∧
      (9 ≤ (CommandWord.k 0x300193).toNat ∧ CommandWord.op 0x300193 = 0x3#4) ∧
      (idle [.command .fg 0x000091]).inputs = .command .fg 0x000091 :: [] ∧ (idle [.command .fg 0x000091]).halt = false := by decide

theorem witness_wrongAgent :
    Agent.trg ≠ Agent.fg ∧ (idle [.command .trg 0x000011]).inputs = .command .trg 0x000011 :: [] ∧
      (idle [.event .trg 0x001]).inputs = .event .trg 0x001 :: [] ∧ decodeEvent 0x001 = .instr (.busDone 0) ∧ Agent.trg ≠ Agent.bc ∧
      (idle [.event .bc 0x002]).inputs = .event .bc 0x002 :: [] ∧ decodeEvent 0x002 = .instr .trig ∧ Agent.bc ≠ Agent.trg ∧
      idle.halt = false := by decide

/-- START, STOP, RDRTC, WRRTC and TRIG: the idle and the busy engine. -/
theorem witness_requests :
    idle.halt = false ∧ idle.busy = false ∧ (starting .rdAddr).halt = false ∧ (starting .rdAddr).busy = true := by decide

/-- SEND: busy, the first range out of memory, the last range in it. -/
theorem witness_send :
    idle.halt = false ∧ (1#8 ≠ 0#8 ∧ (starting .none).busy = true) ∧
      (idle.busy = false ∧ 256 < (0xFF#8).toNat + (2#8).toNat) ∧ (idle.busy = false ∧ (0xFF#8).toNat + (1#8).toNat ≤ 256) := by decide

/-- RECV: the ranges where its clauses meet. -/
theorem witness_recv :
    idle.halt = false ∧ (1#8 ≠ 0#8 ∧ (starting .none).busy = true) ∧ 256 < (0xF8#8).toNat + (9#8).toNat ∧
      (8 < (0x08#8).toNat + (1#8).toNat ∧ (0x08#8).toNat < 0x0B) ∧ (8 < (0x0A#8).toNat + (1#8).toNat ∧ (0x0A#8).toNat < 0x0B) ∧
      (0x00#8).toNat + (8#8).toNat ≤ 8 ∧ ((0x0B#8).toNat + (245#8).toNat ≤ 256 ∧ 0x0B ≤ (0x0B#8).toNat) ∧ idle.busy = false := by decide

theorem witness_oneEngineStep :
    (∃ t, exec (.start .none) idle = .next t ∧ t.resp = some (.bit 1#1)) ∧
      (∃ t, exec (.send 0x20 1 .none) (starting .none) = .next t) ∧ (∃ t, exec (.recv 0x30 1 .none) (starting .none) = .next t) ∧
      1#8 ≠ 0#8 ∧ (starting .none).busy = true := ⟨⟨_, rfl, rfl⟩, ⟨_, rfl⟩, ⟨_, rfl⟩, by decide, rfl⟩

theorem witness_sendingArm :
    (sending .none 0x20 1).halt = false ∧ (sending .none 0x20 1).busy = true ∧ (sending .none 0x20 1).phase = .sending ∧
      (sending .none 0x20 1).brem ≠ 0#8 ∧ (sending .none 0x20 0).brem = 0#8 ∧ (sending .none 0x20 0).phase = .sending := by decide

theorem witness_receivingArm :
    (receiving .none 0x30 2).halt = false ∧ (receiving .none 0x30 2).busy = true ∧ (receiving .none 0x30 2).phase = .receiving ∧
      (receiving .none 0x30 2).brem ≠ 0#8 ∧ (receiving .none 0x30 2).brem ≠ 1#8 ∧ (receiving .none 0x30 1).brem = 1#8 ∧
      isRom (receiving .none 0x30 1).bptr = false ∧ 0x31#8 ≠ (receiving .none 0x30 1).bptr := by decide

theorem witness_commandArm :
    (starting .rdAddr).halt = false ∧ (starting .rdAddr).busy = true ∧ (starting .rdAddr).phase = .command ∧
      { idle with busy := true }.phase = .idle := by decide

theorem witness_dataByte :
    (starting .none).phase ≠ .receiving ∧ (sending .none 0x20 0).phase ≠ .receiving := by decide

theorem witness_lateBuffer :
    (sending .none 0x0B 1).halt = false ∧ (sending .none 0x0B 1).busy = true ∧ (sending .none 0x0B 1).phase = .sending ∧
      (sending .none 0x0B 1).brem ≠ 0#8 ∧ 0x0B ≤ (sending .none 0x0B 1).bptr.toNat := by decide

theorem witness_sendStep :
    idle.halt = false ∧ idle.busy = false ∧ (0xFE#8).toNat + (2#8).toNat ≤ 256 ∧ [(0x00 : Byte)].length + 1 = (2#8).toNat := by decide

theorem witness_recvStep :
    idle.halt = false ∧ idle.busy = false ∧ (0x00#8).toNat + (8#8).toNat ≤ 256 ∧ (0x00#8).toNat + (8#8).toNat ≤ 8 ∧
      (List.replicate 7 (0x11 : Byte)).length + 1 = (8#8).toNat ∧ 0x0B ≤ (0x0B#8).toNat ∧ (0x0B#8).toNat + (1#8).toNat ≤ 256 ∧
      ([] : List Byte).length + 1 = (1#8).toNat := by decide

/-- The targets and the chains: the idle engine, the memory in its form. -/
theorem witness_targets :
    idle.halt = false ∧ idle.busy = false ∧ Memory.wf idle = true := by decide

theorem witness_validate :
    (∃ t, exec .kRdFinish (holding idle [0x45, 0x30, 0x12, 0x02, 0x15, 0x06, 0x24, 0x10]) = .next t) ∧
      (holding idle [0x45, 0x30, 0x12, 0x02, 0x15, 0x06, 0x24, 0x10]).busy = false ∧
      invalidBit (memRead (holding idle [0x45, 0x30, 0x12, 0x02, 0x15, 0x06, 0x24, 0x10]) 0x00) = false ∧
      memRead (holding idle [0x45, 0x30, 0x12, 0x02, 0x15, 0x06, 0x24, 0x10]) 0x07 = cfg.ctrlValue ∧
      invalidBit (memRead (holding idle [0x80]) 0x00) = true ∧ memRead (holding idle [0x7F]) 0x07 ≠ cfg.ctrlValue ∧
      invalidBit (memRead (holding idle [0x7F]) 0x00) = false ∧ 8 ≤ (0x08#8).toNat := ⟨⟨_, rfl⟩, by decide, by decide, by decide, by decide, by decide, by decide, by decide⟩

theorem witness_writeChain :
    (List.replicate 11 (0x00 : Byte)).length = 11 := by decide

theorem witness_memwr :
    idle.halt = false ∧ (0x0A#8).toNat ≤ 0x0A ∧ 0x0A < (0x0B#8).toNat := by decide

theorem witness_memfill :
    idle.halt = false ∧ expandMemfill 0xFE [0x01, 0x02] = some [.memwr 0xFE 0x01, .memwr 0xFF 0x02] := by decide

theorem witness_faults :
    idle.halt = false ∧ faultOf (.memwr 0x0A 0) idle = .protectedWrite ∧ faultOf (.memwr 0x0B 0) idle = .none ∧
      faultOf (.send 0xFF 2 .none) idle = .bufferRange ∧ faultOf (.send 0xFF 1 .none) idle = .none ∧
      faultOf (.recv 0x01 8 .none) idle = .bufferRange ∧ faultOf (.recv 0x00 8 .none) idle = .none ∧
      faultOf (.busDone 0) idle = .spuriousCompletion ∧ faultOf (.busDone 0) (starting .none) = .none := by decide

theorem witness_halted :
    (halted).halt = true ∧ (∀ src rest, (halted [.event .trg 0x002]).inputs ≠ .reset src :: rest) ∧
      (halted [.reset .watchdog]).inputs = .reset .watchdog :: [] := ⟨rfl, fun _ _ h => (by cases h), rfl⟩

theorem witness_reset :
    (idle [.reset .powerOn]).inputs = .reset .powerOn :: [] := by decide

/-- The frames: an instruction that stores nothing, and each one that stores. -/
theorem witness_frames :
    (∃ t, exec .stop idle = .next t) ∧ (∃ t, exec (.memwr 0x30 1) idle = .next t) ∧
      (∃ t, exec (.busDone 0x45) (receiving .rdFinish 0x07 1) = .next t) ∧ (∃ t, exec .kRdFinish idle = .next t) ∧
      (.stop : Instr) ≠ .kRdFinish ∧ (∀ a v, (.stop : Instr) ≠ .memwr a v) ∧ (∀ d, (.stop : Instr) ≠ .busDone d) ∧
      ¬ (0x08#8 = (receiving .rdFinish 0x07 1).bptr) ∧ ¬ (0x08#8).toNat < 8 ∧ 8 ≤ (0x08#8).toNat := ⟨⟨_, rfl⟩, ⟨_, rfl⟩, ⟨_, rfl⟩, ⟨_, rfl⟩, by decide, fun _ _ h => (by cases h), fun _ h => (by cases h), by decide, by decide,
    by decide⟩

theorem witness_busyEngine :
    (starting .rdAddr).busy = true ∧ (∀ d, (.trig : Instr) ≠ .busDone d) ∧ ∃ t, exec .trig (starting .rdAddr) = .next t := ⟨rfl, fun _ h => (by cases h), ⟨_, rfl⟩⟩

theorem witness_flagRises :
    idle.cfg.triggerSetsFlag = false ∧ idle.flag = false ∧ ∃ t, exec .kRdFinish idle = .next t ∧ t.flag = true := ⟨rfl, rfl, ⟨_, rfl, rfl⟩⟩

theorem witness_flagStays :
    { idle [.event .trg 0x002] with flag := true }.flag = true ∧
      (∃ t, step { idle [.event .trg 0x002] with flag := true } = .next t) ∧
      (∃ t, step { idle [.command .fg 0x000007] with flag := true } = .next t) ∧
      (∃ t, step { idle [.reset .watchdog] with flag := true } = .next t) := ⟨rfl, ⟨_, rfl⟩, ⟨_, rfl⟩, ⟨_, rfl⟩⟩

theorem witness_hung :
    let s : State := { starting .rdAddr with inputs := [.event .trg 0x002] }
    s.busy = true ∧ (∃ t, step s = .next t) ∧ (∀ src rest, s.inputs ≠ .reset src :: rest) ∧
      (∀ ag w rest d, s.inputs = .event ag w :: rest → decodeEvent w ≠ .instr (.busDone d)) := 
  ⟨rfl, ⟨_, rfl⟩, fun _ _ h => (by cases h), fun _ _ _ _ h => by cases h; decide +revert⟩

/-- STATUS: each phase, and the first and the last target. -/
theorem witness_status :
    idle.halt = false ∧ idle.phase = .idle ∧ idle.cont = .none ∧ (starting .rdAddr).phase = .command ∧
      (starting .rdAddr).cont = .rdAddr ∧ (sending .wrFinish 0x01 7).phase = .sending ∧
      (sending .wrFinish 0x01 7).cont = .wrFinish ∧ (receiving .rdFinish 0x00 8).phase = .receiving ∧
      (receiving .rdFinish 0x00 8).halt = false := by decide

/-- The invariant holds of a state a run reaches, an operation outstanding. -/
theorem witness_invariant : Invariant (starting .rdAddr) where
  engine := ⟨by decide, by decide⟩
  port := ⟨by decide, by decide, fun h => (by cases h), fun h => (by cases h), fun _ => by decide⟩
  cursor := ⟨fun h => (by cases h), fun h => (by cases h), fun h => (by cases h)⟩
  halt_iff := by decide
  memory := by decide

theorem witness_invariantSteps :
    (∃ t, step { starting .rdAddr with inputs := [.event .bc 0x001] } = .next t) ∧ Memory.wf (starting .rdAddr) = true :=
  ⟨⟨_, rfl⟩, by decide⟩

theorem witness_contract :
    (starting .rdAddr).cfg.bcSpurious = false ∧ ContractKept { starting .rdAddr with inputs := [.event .bc 0x001] } :=
  ⟨rfl, fun _ _ _ _ _ => .inl (by decide)⟩

end Sys2Proof.Tests
end

/-! PROOFS. 00_scope.md: what a step runs, and what no instruction writes. -/

namespace Sys2Proof.Machine

/-! ### A presented word that decodes is run -/

theorem whileEnabled_running {s : State} (h : s.halt = false) (n : Next) : whileEnabled s n = n := by
  simp [whileEnabled, h]

theorem step_of_nextOf_run {s u : State} {i : Instr} (h : nextOf s = .run i u) : step s = exec i u := by
  simp [step, h]

/-- A command word of FG that decodes is FG's to present and no handler's, so nothing refuses it (R74, R212). -/
theorem nextOf_command_run {s : State} {w : CommandWord} {rest : List Input} {i : Instr} (hh : s.halt = false)
    (hin : s.inputs = .command .fg w :: rest) (hd : decodeCommand w = .instr i) :
    nextOf s = .run i { s with inputs := rest } := by
  rw [nextOf_commandFirst hin, whileEnabled_running hh, onCommand, if_pos rfl, hd]
  exact takeWord_fg (presenter_of_decodeCommand hd) _

/-- Where IRQ_NESTING is false no handler nests (00_scope.md R11). -/
theorem nestedHandler_eq_false {s : State} (h : s.cfg.irqNesting = false) (i : Instr) : nestedHandler i s = false := by
  unfold nestedHandler
  split
  · exact h
  · exact h
  · rfl

/-- An instruction is run when its own agent presents it and handlers do not nest (R211, R212). -/
theorem takeWord_owner {ag : Agent} {i : Instr} {u : State} (hp : presenter i = some ag)
    (hn : u.cfg.irqNesting = false) : takeWord ag u (.instr i) = .run i u := by
  simp [takeWord, mayPresent, hp, nestedHandler_eq_false hn]

/-- An event word that decodes to what its agent owns is run (R210, R212). -/
theorem nextOf_event_run {s : State} {ag : Agent} {w : EventWord} {rest : List Input} {i : Instr} (hh : s.halt = false)
    (hn : s.cfg.irqNesting = false) (hin : s.inputs = .event ag w :: rest) (hag : ag = .bc ∨ ag = .trg)
    (hd : decodeEvent w = .instr i) (hp : presenter i = some ag) :
    nextOf s = .run i { s with inputs := rest } := by
  rw [nextOf_eventFirst hin, whileEnabled_running hh, onEvent, if_pos hag, hd]
  exact takeWord_owner hp hn

/-- Settles O4: the word decodes to an instruction FG presents, and a step that runs one is its `exec`. -/
theorem stepRunsThePresentedCommand : Obligations.StepRunsThePresentedCommand := by
  intro s w rest i hh hin hd
  exact step_of_nextOf_run (nextOf_command_run hh hin hd)

/-- Settles O5: both events by the one rule for the event port, BC presenting BUS_DONE and TRG presenting TRIG. -/
theorem stepRunsThePresentedEvent : Obligations.StepRunsThePresentedEvent := by
  constructor
  · intro s w rest d hh hn hin hd
    exact step_of_nextOf_run (nextOf_event_run hh hn hin (.inl rfl) hd rfl)
  · intro s w rest hh hn hin hd
    exact step_of_nextOf_run (nextOf_event_run hh hn hin (.inr rfl) hd rfl)

/-! ### What no instruction writes -/

/-- The parameters, what memory came up with and the schedule are the same in both states, and no free value was drawn between
them. -/
def SameSetting (s t : State) : Prop :=
  t.cfg = s.cfg ∧ t.fill = s.fill ∧ t.inputs = s.inputs ∧ t.draws = s.draws

theorem requestStart_sameSetting (k : Target) (s : State) : SameSetting s (requestStart k s).1 :=
  ⟨requestStart_cfg k s, requestStart_fill k s, requestStart_inputs k s, requestStart_draws k s⟩

theorem requestSend_sameSetting (a : Addr) (n : Count) (k : Target) (s : State) :
    SameSetting s (requestSend a n k s).1 :=
  ⟨requestSend_cfg a n k s, requestSend_fill a n k s, requestSend_inputs a n k s, requestSend_draws a n k s⟩

theorem requestRecv_sameSetting (a : Addr) (n : Count) (k : Target) (s : State) :
    SameSetting s (requestRecv a n k s).1 :=
  ⟨requestRecv_cfg a n k s, requestRecv_fill a n k s, requestRecv_inputs a n k s, requestRecv_draws a n k s⟩

theorem requestStop_sameSetting (s : State) : SameSetting s (requestStop s).1 :=
  ⟨requestStop_cfg s, requestStop_fill s, requestStop_inputs s, requestStop_draws s⟩

theorem requestMemwr_sameSetting (a : Addr) (v : Byte) (s : State) : SameSetting s (requestMemwr a v s).1 := by
  unfold requestMemwr
  split <;> exact ⟨rfl, rfl, rfl, rfl⟩

theorem dispatch_sameSetting (k : Target) (s : State) : SameSetting s (dispatch k s) :=
  ⟨dispatch_cfg k s, dispatch_fill k s, dispatch_inputs k s, dispatch_draws k s⟩

/-- The trigger's read request, with FLAG set after it or not (R190). -/
theorem trigger_sameSetting (s : State) : SameSetting s (trigger s) := by
  unfold trigger
  split <;> exact requestStart_sameSetting .rdAddr s

/-- A command's response and an event's silence are no part of the setting, so each instruction keeps what its request or its
dispatch keeps. -/
theorem effect_sameSetting {i : Instr} (hi : ∀ d, i ≠ .busDone d) (s : State) : SameSetting s (effect i s) := by
  cases i with
  | start _ | rdrtc | wrrtc => exact requestStart_sameSetting _ s
  | send a n k => exact requestSend_sameSetting a n k s
  | recv a n k => exact requestRecv_sameSetting a n k s
  | stop => exact requestStop_sameSetting s
  | flgclr | status | memrd _ => exact ⟨rfl, rfl, rfl, rfl⟩
  | memwr a v => exact requestMemwr_sameSetting a v s
  | busDone d => exact absurd rfl (hi d)
  | trig => exact trigger_sameSetting s
  | kNone => exact dispatch_sameSetting .none s
  | kRdAddr => exact dispatch_sameSetting .rdAddr s
  | kRdRestart => exact dispatch_sameSetting .rdRestart s
  | kRdDevread => exact dispatch_sameSetting .rdDevread s
  | kRdRecv => exact dispatch_sameSetting .rdRecv s
  | kRdFinish => exact dispatch_sameSetting .rdFinish s
  | kWrAddr => exact dispatch_sameSetting .wrAddr s
  | kWrData => exact dispatch_sameSetting .wrData s
  | kWrFinish => exact dispatch_sameSetting .wrFinish s

/-- BUS_DONE keeps the setting but for its draws, in each thing it can do: BPTR and BREM take free values where a step completes
(R115). -/
theorem busDone_setting (d : Byte) (s : State) :
    (busDone d s).cfg = s.cfg ∧ (busDone d s).fill = s.fill ∧ (busDone d s).inputs = s.inputs := by
  rcases busDone_cases d s with ⟨-, h⟩ | ⟨-, -, -, h⟩ | ⟨-, -, -, h⟩ | ⟨-, -, -, h⟩ | ⟨-, -, -, h⟩ <;> simp [h]

/-- Settles O49: BUS_DONE keeps all but the draws, every other instruction keeps the draws too. -/
theorem noInstructionWritesTheConfiguration : Obligations.NoInstructionWritesTheConfiguration := by
  intro i s t h
  obtain ⟨-, rfl⟩ := exec_next.mp h
  by_cases hi : ∃ d, i = .busDone d
  · obtain ⟨d, rfl⟩ := hi
    obtain ⟨hcfg, hfill, hinputs⟩ := busDone_setting d s
    exact ⟨hcfg, hfill, hinputs, fun hne => absurd rfl (hne d)⟩
  · obtain ⟨hcfg, hfill, hinputs, hdraws⟩ := effect_sameSetting (not_exists.mp hi) s
    exact ⟨hcfg, hfill, hinputs, fun _ => hdraws⟩

end Sys2Proof.Machine

/-! PROOFS. 10_state.md: what every step keeps of the engine, the port and the memory, how the history grows, when FLAG changes,
when a fault is taken, and the status word. -/

namespace Sys2Proof.Machine

/-! ### One principle for what every step keeps -/

/-- A predicate that no response and no schedule bears on, which a reset establishes and every meaning keeps, is kept by every
step. -/
theorem step_keeps {P : State → Prop} (hresp : ∀ s, P s → P { s with resp := none })
    (hinputs : ∀ s is, P s → P { s with inputs := is }) (hreset : ∀ c n is, P (State.afterReset c n is))
    (heffect : ∀ i s, s.halt = false → P s → P (effect i s)) {s t : State} (hs : P s) (h : step s = .next t) : P t := by
  rcases step_next h with ⟨-, rfl⟩ | ⟨u, -, rfl⟩ | ⟨i, u, hu, ht⟩
  · exact hresp s hs
  · exact hreset _ _ _
  · obtain ⟨-, _, rest, -, rfl, -⟩ := nextOf_run hu
    obtain ⟨hh, rfl⟩ := exec_next.mp ht
    exact heffect i _ hh (hinputs s rest hs)

/-! ### The cursor's arithmetic (R117) and the range checks (20_memory.md R53) -/

theorem lessOne_toNat (n : Count) : (lessOne n).toNat = n.toNat - 1 := by
  simp only [lessOne, BitVec.toNat_ofNat]
  omega

theorem nextAddr_toNat {a : Addr} (h : a.toNat < 255) : (nextAddr a).toNat = a.toNat + 1 := by
  simp [nextAddr, BitVec.toNat_add]
  omega

theorem sendOk_iff {a : Addr} {n : Count} : sendOk a n = true ↔ a.toNat + n.toNat ≤ 256 := by
  simp [sendOk]

theorem recvOk_iff {a : Addr} {n : Count} :
    recvOk a n = true ↔ a.toNat + n.toNat ≤ 256 ∧ (a.toNat + n.toNat ≤ 8 ∨ 11 ≤ a.toNat) := by
  simp [recvOk]

/-- While bytes remain, the range left after one byte is in the range checked. -/
theorem sendOk_next {a : Addr} {n : Count} (h : sendOk a n = true) (hn : 0 < (lessOne n).toNat) :
    sendOk (nextAddr a) (lessOne n) = true := by
  rw [sendOk_iff] at h ⊢
  rw [lessOne_toNat] at hn ⊢
  rw [nextAddr_toNat (by omega)]
  omega

theorem recvOk_next {a : Addr} {n : Count} (h : recvOk a n = true) (hn : 0 < (lessOne n).toNat) :
    recvOk (nextAddr a) (lessOne n) = true := by
  rw [recvOk_iff] at h ⊢
  rw [lessOne_toNat] at hn ⊢
  rw [nextAddr_toNat (by omega)]
  omega

/-! ### The engine's registers, and the states in which they and the port agree -/

/-- The engine's registers and the outstanding operation are the same in both states. -/
structure SameEngine (s t : State) : Prop where
  busy : t.busy = s.busy
  phase : t.phase = s.phase
  cont : t.cont = s.cont
  bptr : t.bptr = s.bptr
  brem : t.brem = s.brem
  outst : t.outst = s.outst

theorem SameEngine.refl (s : State) : SameEngine s s :=
  ⟨rfl, rfl, rfl, rfl, rfl, rfl⟩

theorem SameEngine.trans {s t u : State} (h : SameEngine s t) (h' : SameEngine t u) : SameEngine s u :=
  ⟨h'.busy.trans h.busy, h'.phase.trans h.phase, h'.cont.trans h.cont, h'.bptr.trans h.bptr, h'.brem.trans h.brem,
    h'.outst.trans h.outst⟩

/-- The part of the machine's invariant that speaks of the engine: its registers, the port and the cursor. -/
structure Coherent (s : State) : Prop where
  engine : EngineInvariant s
  port : PortInvariant s
  cursor : CursorInvariant s

theorem engineInvariant_congr {s t : State} (h : EngineInvariant s) (hb : t.busy = s.busy) (hp : t.phase = s.phase)
    (hc : t.cont = s.cont) : EngineInvariant t where
  idle_iff := by rw [hb, hp]; exact h.idle_iff
  cont_none := by rw [hb, hc]; exact h.cont_none

theorem coherent_congr {s t : State} (hs : Coherent s) (h : SameEngine s t) (hlast : s.outst ≠ none → t.bh = s.bh) :
    Coherent t where
  engine := engineInvariant_congr hs.engine h.busy h.phase h.cont
  port :=
    { idle := by rw [h.phase, h.outst]; exact hs.port.idle
      command := by rw [h.phase, h.outst]; exact hs.port.command
      sending := by rw [h.phase, h.outst]; exact hs.port.sending
      receiving := by rw [h.phase, h.outst, h.brem]; exact hs.port.receiving
      last := by rw [h.outst]; exact fun ho => hlast ho ▸ hs.port.last ho }
  cursor :=
    { sending := by rw [h.phase, h.brem, h.bptr]; exact hs.cursor.sending
      receiving_pos := by rw [h.phase, h.brem]; exact hs.cursor.receiving_pos
      receiving := by rw [h.phase, h.brem, h.bptr]; exact hs.cursor.receiving }

/-- A start condition handed over in the Command phase (R21). -/
theorem coherent_issue_start {s : State} (hb : s.busy = true) (hp : s.phase = .command) : Coherent (issue .start s) where
  engine := ⟨by simp [hb, hp], by simp [hb]⟩
  port := by constructor <;> simp [hp]
  cursor := by constructor <;> simp [hp]

/-- A byte handed over in the Sending phase, with the cursor in its range (R53, R105). -/
theorem coherent_issue_tx {s : State} (v : Byte) (hb : s.busy = true) (hp : s.phase = .sending)
    (hr : 0 < s.brem.toNat → sendOk s.bptr s.brem = true) : Coherent (issue (.tx v) s) where
  engine := ⟨by simp [hb, hp], by simp [hb]⟩
  port := by constructor <;> simp [hp]
  cursor := ⟨fun _ => hr, by simp [hp], by simp [hp]⟩

/-- A receive armed in the Receiving phase, with bytes to come and the cursor in its range (R53, R106). -/
theorem coherent_issue_rx {s : State} (hb : s.busy = true) (hp : s.phase = .receiving) (hpos : 0 < s.brem.toNat)
    (hr : recvOk s.bptr s.brem = true) : Coherent (issue (.rx (ackFor s.brem)) s) where
  engine := ⟨by simp [hb, hp], by simp [hb]⟩
  port := by constructor <;> simp [hp]
  cursor := ⟨by simp [hp], fun _ => hpos, fun _ => hr⟩

/-- The cleared engine with nothing outstanding, in which a target is dispatched (R115). -/
theorem coherent_engineIdle {s : State} (ho : s.outst = none) : Coherent (engineIdle s) where
  engine := ⟨by simp, by simp⟩
  port := by constructor <;> simp [ho]
  cursor := by constructor <;> simp

theorem coherent_afterReset (c : Config) (n : Nat) (is : List Input) : Coherent (State.afterReset c n is) where
  engine := ⟨by simp [State.afterReset], by simp [State.afterReset]⟩
  port := by constructor <;> simp [State.afterReset]
  cursor := by constructor <;> simp [State.afterReset]

/-! ### What a request or a dispatch can do to the engine -/

/-- What everything but BUS_DONE can do to the engine: nothing; a stop condition of the idle engine; or an engine step begun in
the idle engine. -/
inductive EngineMove (s t : State) : Prop where
  | kept (h : SameEngine s t) (hbh : t.bh = s.bh)
  | stopped (hs : s.busy = false) (h : SameEngine s t) (hbh : t.bh = s.bh ++ [.stop])
  | begun (hs : s.busy = false) (h : Coherent t) (hbh : ∃ ops, t.bh = s.bh ++ ops ∧ ops.length ≤ 2)

theorem EngineMove.refl (s : State) : EngineMove s s :=
  .kept (.refl s) rfl

theorem EngineMove.trans_same {s t u : State} (m : EngineMove s t) (h : SameEngine t u) (hbh : u.bh = t.bh) :
    EngineMove s u := by
  cases m with
  | kept h' hbh' => exact .kept (h'.trans h) (hbh.trans hbh')
  | stopped hs h' hbh' => exact .stopped hs (h'.trans h) (hbh.trans hbh')
  | begun hs h' hbh' => exact .begun hs (coherent_congr h' h fun _ => hbh) (hbh ▸ hbh')

theorem EngineMove.respond {s : State} {r : Answer} (m : EngineMove s r.1) : EngineMove s (respond r) :=
  m.trans_same ⟨rfl, rfl, rfl, rfl, rfl, rfl⟩ rfl

theorem EngineMove.silent {s t : State} (m : EngineMove s t) : EngineMove s (silent t) :=
  m.trans_same ⟨rfl, rfl, rfl, rfl, rfl, rfl⟩ rfl

theorem EngineMove.setFlag {s t : State} (m : EngineMove s t) : EngineMove s (setFlag t) :=
  m.trans_same ⟨rfl, rfl, rfl, rfl, rfl, rfl⟩ rfl

theorem EngineMove.keeps_engineInvariant {s t : State} (m : EngineMove s t) (h : EngineInvariant s) :
    EngineInvariant t := by
  cases m with
  | kept h' _ => exact engineInvariant_congr h h'.busy h'.phase h'.cont
  | stopped _ h' _ => exact engineInvariant_congr h h'.busy h'.phase h'.cont
  | begun _ h' _ => exact h'.engine

theorem EngineMove.keeps_coherent {s t : State} (m : EngineMove s t) (h : Coherent s) : Coherent t := by
  cases m with
  | kept h' hbh => exact coherent_congr h h' fun _ => hbh
  | stopped hs h' _ => exact coherent_congr h h' fun ho => absurd (h.port.idle (h.engine.idle_iff.mp hs)) ho
  | begun _ h' _ => exact h'

theorem EngineMove.history {s t : State} (m : EngineMove s t) : ∃ ops, t.bh = s.bh ++ ops ∧ ops.length ≤ 2 := by
  cases m with
  | kept _ hbh => exact ⟨[], by simp [hbh], by simp⟩
  | stopped _ _ hbh => exact ⟨[.stop], hbh, by simp⟩
  | begun _ _ hbh => exact hbh

theorem requestStart_move (k : Target) (s : State) : EngineMove s (requestStart k s).1 := by
  cases hb : s.busy with
  | true => rw [requestStart_busy hb]; exact .refl s
  | false => rw [requestStart_idle hb]; exact .begun hb (coherent_issue_start rfl rfl) ⟨[.start], rfl, by simp⟩

theorem requestSend_move (a : Addr) (n : Count) (k : Target) (s : State) : EngineMove s (requestSend a n k s).1 := by
  rcases requestSend_cases a n k s with ⟨-, h⟩ | ⟨-, -, h⟩ | ⟨-, -, -, h⟩ | ⟨-, hb, hr, h⟩ <;> rw [h]
  · exact .refl s
  · exact .refl s
  · exact .kept ⟨rfl, rfl, rfl, rfl, rfl, rfl⟩ rfl
  · exact .begun hb (coherent_issue_tx _ rfl rfl (sendOk_next hr)) ⟨[_], rfl, by simp⟩

theorem requestRecv_move (a : Addr) (n : Count) (k : Target) (s : State) : EngineMove s (requestRecv a n k s).1 := by
  rcases requestRecv_cases a n k s with ⟨-, h⟩ | ⟨-, -, h⟩ | ⟨-, -, -, h⟩ | ⟨hn, hb, hr, h⟩ <;> rw [h]
  · exact .refl s
  · exact .refl s
  · exact .kept ⟨rfl, rfl, rfl, rfl, rfl, rfl⟩ rfl
  · have hpos : 0 < n.toNat := Nat.pos_of_ne_zero fun h0 => hn (BitVec.eq_of_toNat_eq h0)
    exact .begun hb (coherent_issue_rx rfl rfl hpos hr) ⟨[_], rfl, by simp⟩

theorem requestStop_move (s : State) : EngineMove s (requestStop s).1 := by
  cases hb : s.busy with
  | true => rw [requestStop_busy hb]; exact .refl s
  | false => rw [requestStop_idle hb]; exact .stopped hb ⟨rfl, rfl, rfl, rfl, rfl, rfl⟩ rfl

theorem requestMemwr_move (a : Addr) (v : Byte) (s : State) : EngineMove s (requestMemwr a v s).1 := by
  unfold requestMemwr
  split <;> exact .kept ⟨rfl, rfl, rfl, rfl, rfl, rfl⟩ rfl

theorem trigger_move (s : State) : EngineMove s (trigger s) := by
  unfold trigger
  split
  · exact (requestStart_move .rdAddr s).setFlag
  · exact requestStart_move .rdAddr s

/-- VALIDATE in the busy engine: the write-back is rejected (R102), the corrections and FLAG are written. -/
theorem validate_busy {s : State} (h : s.busy = true) : validate s = setFlag (repairControl (repairSeconds s)) := by
  unfold validate writeBack
  rw [repaired_eq, requestWrrtc, requestStart_busy (by exact h)]
  split <;> rfl

/-- RD_FINISH stops the idle engine and may begin the write-back; the busy engine rejects both (R148, R152). -/
theorem actRdFinish_move (s : State) : EngineMove s (actRdFinish s) := by
  cases hb : s.busy with
  | true =>
    rw [actRdFinish, requestStop_busy hb, validate_busy (by exact hb), repaired_eq]
    exact .kept ⟨rfl, rfl, rfl, rfl, rfl, rfl⟩ rfl
  | false =>
    rw [actRdFinish_idle hb, validate_idle (by exact hb)]
    split
    · exact (EngineMove.begun hb (coherent_issue_start rfl rfl) ⟨[.stop, .start], by simp, by simp⟩).setFlag
    · exact .stopped hb ⟨rfl, rfl, rfl, rfl, rfl, rfl⟩ rfl

theorem dispatch_move (k : Target) (s : State) : EngineMove s (dispatch k s) := by
  cases k with
  | none => exact .refl s
  | rdAddr | rdDevread | wrAddr | wrData => exact requestSend_move _ _ _ s
  | rdRestart => exact requestStart_move _ s
  | rdRecv => exact requestRecv_move _ _ _ s
  | rdFinish => exact actRdFinish_move s
  | wrFinish => exact requestStop_move s

theorem effect_move {i : Instr} (hi : ∀ d, i ≠ .busDone d) (s : State) : EngineMove s (effect i s) := by
  cases i with
  | start _ | rdrtc | wrrtc => exact (requestStart_move _ s).respond
  | send a n k => exact (requestSend_move a n k s).respond
  | recv a n k => exact (requestRecv_move a n k s).respond
  | stop => exact (requestStop_move s).respond
  | flgclr | status | memrd _ => exact .kept ⟨rfl, rfl, rfl, rfl, rfl, rfl⟩ rfl
  | memwr a v => exact (requestMemwr_move a v s).respond
  | busDone d => exact absurd rfl (hi d)
  | trig => exact (trigger_move s).silent
  | kNone => exact (dispatch_move .none s).silent
  | kRdAddr => exact (dispatch_move .rdAddr s).silent
  | kRdRestart => exact (dispatch_move .rdRestart s).silent
  | kRdDevread => exact (dispatch_move .rdDevread s).silent
  | kRdRecv => exact (dispatch_move .rdRecv s).silent
  | kRdFinish => exact (dispatch_move .rdFinish s).silent
  | kWrAddr => exact (dispatch_move .wrAddr s).silent
  | kWrData => exact (dispatch_move .wrData s).silent
  | kWrFinish => exact (dispatch_move .wrFinish s).silent

/-! ### The engine invariant (R25) -/

/-- BUS_DONE leaves the registers of R25 as they are, or clears them and dispatches. -/
theorem busDone_keeps_engineInvariant (d : Byte) {s : State} (h : EngineInvariant s) : EngineInvariant (busDone d s) := by
  have hdispatch : ∀ u : State, EngineInvariant (dispatch s.cont (engineIdle u)) := fun u =>
    (dispatch_move s.cont _).keeps_engineInvariant ⟨by simp, by simp⟩
  rcases busDone_cases d s with ⟨-, he⟩ | ⟨-, -, -, he⟩ | ⟨-, -, -, he⟩ | ⟨-, -, -, he⟩ | ⟨-, -, -, he⟩ <;> rw [he]
  · exact engineInvariant_congr h rfl rfl rfl
  · exact engineInvariant_congr h rfl rfl rfl
  · exact engineInvariant_congr h rfl rfl rfl
  · exact hdispatch _
  · exact hdispatch _

theorem effect_keeps_engineInvariant (i : Instr) {s : State} (h : EngineInvariant s) : EngineInvariant (effect i s) := by
  by_cases hi : ∃ d, i = .busDone d
  · obtain ⟨d, rfl⟩ := hi
    exact engineInvariant_congr (busDone_keeps_engineInvariant d h) rfl rfl rfl
  · exact (effect_move (not_exists.mp hi) s).keeps_engineInvariant h

/-- Settles O56: the reset state is idle, and every meaning keeps BUSY, PHASE and CONT in agreement. -/
theorem engineInvariantIsInductive : Obligations.EngineInvariantIsInductive := by
  refine ⟨(coherent_afterReset _ _ _).engine, fun s t hs h => ?_⟩
  refine step_keeps (P := EngineInvariant) ?_ ?_ ?_ ?_ hs h
  · exact fun u hu => engineInvariant_congr hu rfl rfl rfl
  · exact fun u _ hu => engineInvariant_congr hu rfl rfl rfl
  · exact fun c n is => (coherent_afterReset c n is).engine
  · exact fun i _ _ hu => effect_keeps_engineInvariant i hu

/-! ### The faults (60_exceptions.md R214, R215) -/

/-- From `s` to `t` the fault `c` is taken, which writes HALT and HCAUSE alone, or, where `c` is none, both stay. -/
structure TakesFault (c : Cause) (s t : State) : Prop where
  kept : c = .none → t.halt = s.halt ∧ t.hcause = s.hcause
  taken : c ≠ .none → t = silent (raiseFault c s)

theorem TakesFault.none {s t : State} (h : t.halt = s.halt ∧ t.hcause = s.hcause) : TakesFault .none s t :=
  ⟨fun _ => h, fun hc => absurd rfl hc⟩

theorem TakesFault.raised {s : State} {c : Cause} (h : c ≠ .none) : TakesFault c s (silent (raiseFault c s)) :=
  ⟨fun hc => absurd hc h, fun _ => rfl⟩

theorem send_takesFault (a : Addr) (n : Count) (k : Target) (s : State) :
    TakesFault (faultOf (.send a n k) s) s (respond (requestSend a n k s)) := by
  rcases requestSend_cases a n k s with ⟨hn, h⟩ | ⟨-, hb, h⟩ | ⟨hn, hb, hr, h⟩ | ⟨-, -, hr, h⟩ <;> rw [h]
  · rw [faultOf, if_neg fun hf => hf.1 hn]
    exact .none ⟨rfl, rfl⟩
  · rw [faultOf, if_neg (by simp [hb])]
    exact .none ⟨rfl, rfl⟩
  · rw [← Bool.not_eq_true, sendOk_iff, Nat.not_le] at hr
    rw [faultOf, if_pos ⟨hn, hb, hr⟩]
    exact .raised (by simp)
  · rw [sendOk_iff, ← Nat.not_lt] at hr
    rw [faultOf, if_neg fun hf => hr hf.2.2]
    exact .none ⟨rfl, rfl⟩

theorem recv_takesFault (a : Addr) (n : Count) (k : Target) (s : State) :
    TakesFault (faultOf (.recv a n k) s) s (respond (requestRecv a n k s)) := by
  rcases requestRecv_cases a n k s with ⟨hn, h⟩ | ⟨-, hb, h⟩ | ⟨hn, hb, hr, h⟩ | ⟨-, -, hr, h⟩ <;> rw [h]
  · rw [faultOf, if_neg fun hf => hf.1 hn]
    exact .none ⟨rfl, rfl⟩
  · rw [faultOf, if_neg (by simp [hb])]
    exact .none ⟨rfl, rfl⟩
  · rw [← Bool.not_eq_true, recvOk_iff] at hr
    rw [faultOf, if_pos ⟨hn, hb, by omega⟩]
    exact .raised (by simp)
  · rw [recvOk_iff] at hr
    rw [faultOf, if_neg (by omega)]
    exact .none ⟨rfl, rfl⟩

theorem memwr_takesFault (a : Addr) (v : Byte) (s : State) :
    TakesFault (faultOf (.memwr a v) s) s (respond (requestMemwr a v s)) := by
  unfold requestMemwr hostWritable
  by_cases h : a.toNat ≤ 0x0A
  · rw [faultOf, if_pos h, if_neg (by simpa using h)]
    exact .raised (by simp)
  · rw [faultOf, if_neg h, if_pos (by simpa using h)]
    exact .none ⟨rfl, rfl⟩

theorem busDone_takesFault (d : Byte) (s : State) :
    TakesFault (faultOf (.busDone d) s) s (silent (busDone d s)) := by
  rcases busDone_cases d s with ⟨hb, h⟩ | ⟨hb, -, -, h⟩ | ⟨hb, -, -, h⟩ | ⟨hb, -, -, h⟩ | ⟨hb, -, -, h⟩ <;>
    simp only [faultOf, hb, h, if_true, Bool.false_eq_true, if_false]
  · exact .raised (by simp)
  · exact .none ⟨rfl, rfl⟩
  · exact .none ⟨rfl, rfl⟩
  · exact .none (by simp)
  · exact .none (by simp)

theorem trigger_noFault (s : State) : (trigger s).halt = s.halt ∧ (trigger s).hcause = s.hcause := by
  unfold trigger
  split <;> exact ⟨requestStart_halt .rdAddr s, requestStart_hcause .rdAddr s⟩

/-- Every meaning takes exactly the fault `faultOf` names. -/
theorem effect_takesFault (i : Instr) (s : State) : TakesFault (faultOf i s) s (effect i s) := by
  cases i with
  | start _ | rdrtc | wrrtc => exact .none ⟨requestStart_halt _ s, requestStart_hcause _ s⟩
  | send a n k => exact send_takesFault a n k s
  | recv a n k => exact recv_takesFault a n k s
  | stop => exact .none ⟨requestStop_halt s, requestStop_hcause s⟩
  | flgclr | status | memrd _ => exact .none ⟨rfl, rfl⟩
  | memwr a v => exact memwr_takesFault a v s
  | busDone d => exact busDone_takesFault d s
  | trig => exact .none (trigger_noFault s)
  | kNone => exact .none ⟨rfl, rfl⟩
  | kRdAddr => exact .none ⟨dispatch_halt .rdAddr s, dispatch_hcause .rdAddr s⟩
  | kRdRestart => exact .none ⟨dispatch_halt .rdRestart s, dispatch_hcause .rdRestart s⟩
  | kRdDevread => exact .none ⟨dispatch_halt .rdDevread s, dispatch_hcause .rdDevread s⟩
  | kRdRecv => exact .none ⟨dispatch_halt .rdRecv s, dispatch_hcause .rdRecv s⟩
  | kRdFinish => exact .none ⟨dispatch_halt .rdFinish s, dispatch_hcause .rdFinish s⟩
  | kWrAddr => exact .none ⟨dispatch_halt .wrAddr s, dispatch_hcause .wrAddr s⟩
  | kWrData => exact .none ⟨dispatch_halt .wrData s, dispatch_hcause .wrData s⟩
  | kWrFinish => exact .none ⟨dispatch_halt .wrFinish s, dispatch_hcause .wrFinish s⟩

/-- HCAUSE names a cause exactly while halted, before a fault and after it (R28). -/
theorem TakesFault.keeps_halt_iff {c : Cause} {s t : State} (f : TakesFault c s t)
    (h : s.halt = true ↔ s.hcause ≠ .none) : t.halt = true ↔ t.hcause ≠ .none := by
  by_cases hc : c = .none
  · obtain ⟨hhalt, hcause⟩ := f.kept hc
    rw [hhalt, hcause]
    exact h
  · simp [f.taken hc, hc]

/-! ### The memory's form -/

theorem storeReceived_wf (d : Byte) {s : State} (h : Memory.wf s = true) : Memory.wf (storeReceived d s) = true :=
  memWrite_wf s.bptr d h

theorem requestMemwr_wf (a : Addr) (v : Byte) {s : State} (h : Memory.wf s = true) :
    Memory.wf (requestMemwr a v s).1 = true := by
  unfold requestMemwr
  split
  · exact memWrite_wf a v h
  · exact h

theorem busDone_wf (d : Byte) {s : State} (h : Memory.wf s = true) : Memory.wf (busDone d s) = true := by
  rcases busDone_cases d s with ⟨-, he⟩ | ⟨-, -, -, he⟩ | ⟨-, -, -, he⟩ | ⟨-, -, -, he⟩ | ⟨-, -, -, he⟩ <;> rw [he]
  · exact h
  · exact h
  · exact storeReceived_wf d (s := delivered s) h
  · exact dispatch_wf _ (storeReceived_wf d (s := delivered s) h)
  · exact dispatch_wf _ (s := engineIdle (delivered s)) h

theorem trigger_wf {s : State} (h : Memory.wf s = true) : Memory.wf (trigger s) = true := by
  unfold trigger
  split <;> exact (wf_requestStart .rdAddr s).trans h

/-- Every meaning keeps the memory's canonical form. -/
theorem effect_wf (i : Instr) {s : State} (h : Memory.wf s = true) : Memory.wf (effect i s) = true := by
  cases i with
  | start _ | rdrtc | wrrtc => exact (wf_requestStart _ s).trans h
  | send a n k => exact (wf_requestSend a n k s).trans h
  | recv a n k => exact (wf_requestRecv a n k s).trans h
  | stop => exact (wf_requestStop s).trans h
  | flgclr | status | memrd _ => exact h
  | memwr a v => exact requestMemwr_wf a v h
  | busDone d => exact busDone_wf d h
  | trig => exact trigger_wf h
  | kNone => exact h
  | kRdAddr => exact dispatch_wf .rdAddr h
  | kRdRestart => exact dispatch_wf .rdRestart h
  | kRdDevread => exact dispatch_wf .rdDevread h
  | kRdRecv => exact dispatch_wf .rdRecv h
  | kRdFinish => exact dispatch_wf .rdFinish h
  | kWrAddr => exact dispatch_wf .wrAddr h
  | kWrData => exact dispatch_wf .wrData h
  | kWrFinish => exact dispatch_wf .wrFinish h

/-! ### The machine's invariant -/

/-- BUS_DONE hands over the next operation with the cursor one further in its range, or dispatches in the cleared engine with
nothing outstanding (R112 to R115). -/
theorem busDone_keeps_coherent (d : Byte) {s : State} (h : Coherent s) : Coherent (busDone d s) := by
  rcases busDone_cases d s with ⟨-, he⟩ | ⟨hb, hp, hn, he⟩ | ⟨hb, hp, hn, he⟩ | ⟨-, -, -, he⟩ | ⟨-, -, -, he⟩ <;> rw [he]
  · exact coherent_congr h ⟨rfl, rfl, rfl, rfl, rfl, rfl⟩ fun _ => rfl
  · exact coherent_issue_tx (s := { s with bptr := nextAddr s.bptr, brem := lessOne s.brem }) _ hb hp
      (sendOk_next (h.cursor.sending hp hn))
  · exact coherent_issue_rx (s := storeReceived d (delivered s)) hb hp hn (recvOk_next (h.cursor.receiving hp) hn)
  · exact (dispatch_move s.cont _).keeps_coherent (coherent_engineIdle rfl)
  · exact (dispatch_move s.cont _).keeps_coherent (coherent_engineIdle rfl)

theorem effect_keeps_coherent (i : Instr) {s : State} (h : Coherent s) : Coherent (effect i s) := by
  by_cases hi : ∃ d, i = .busDone d
  · obtain ⟨d, rfl⟩ := hi
    exact coherent_congr (busDone_keeps_coherent d h) ⟨rfl, rfl, rfl, rfl, rfl, rfl⟩ fun _ => rfl
  · exact (effect_move (not_exists.mp hi) s).keeps_coherent h

theorem invariant_iff {s : State} :
    Invariant s ↔ Coherent s ∧ (s.halt = true ↔ s.hcause ≠ .none) ∧ Memory.wf s = true :=
  ⟨fun h => ⟨⟨h.engine, h.port, h.cursor⟩, h.halt_iff, h.memory⟩,
    fun ⟨hc, hh, hm⟩ => ⟨hc.engine, hc.port, hc.cursor, hh, hm⟩⟩

/-- A change of the response or the schedule alone is no change the invariant sees. -/
theorem invariant_congr {s t : State} (h : Invariant s) (he : SameEngine s t) (hbh : t.bh = s.bh)
    (hh : t.halt = s.halt) (hc : t.hcause = s.hcause) (hm : Memory.wf t = Memory.wf s) : Invariant t := by
  obtain ⟨hcoh, hhalt, hmem⟩ := invariant_iff.mp h
  exact invariant_iff.mpr ⟨coherent_congr hcoh he fun _ => hbh, by rw [hh, hc]; exact hhalt, hm.trans hmem⟩

theorem invariant_afterReset (c : Config) (n : Nat) (is : List Input) : Invariant (State.afterReset c n is) :=
  invariant_iff.mpr ⟨coherent_afterReset c n is, by simp [State.afterReset], afterReset_wf c n is⟩

theorem effect_keeps_invariant (i : Instr) {s : State} (h : Invariant s) : Invariant (effect i s) := by
  obtain ⟨hcoh, hhalt, hmem⟩ := invariant_iff.mp h
  exact invariant_iff.mpr
    ⟨effect_keeps_coherent i hcoh, (effect_takesFault i s).keeps_halt_iff hhalt, effect_wf i hmem⟩

/-- Settles O58: every meaning keeps the engine, the port and the cursor in agreement, HCAUSE with HALT, and the memory's
form. -/
theorem everyStepKeepsTheInvariant : Obligations.EveryStepKeepsTheInvariant := by
  intro s t hs h
  refine step_keeps (P := Invariant) ?_ ?_ invariant_afterReset ?_ hs h
  · exact fun u hu => invariant_congr hu ⟨rfl, rfl, rfl, rfl, rfl, rfl⟩ rfl rfl rfl rfl
  · exact fun u _ hu => invariant_congr hu ⟨rfl, rfl, rfl, rfl, rfl, rfl⟩ rfl rfl rfl rfl
  · exact fun i _ _ hu => effect_keeps_invariant i hu

/-! ### The bus controller's contract (R33) -/

theorem faultOf_eq_spuriousCompletion {i : Instr} {s : State} (h : faultOf i s = .spuriousCompletion) :
    (∃ d, i = .busDone d) ∧ s.busy = false := by
  cases i with
  | busDone d => exact ⟨⟨d, rfl⟩, by simpa [faultOf] using h⟩
  | send a n k | recv a n k | memwr a v => simp only [faultOf] at h; split at h <;> cases h
  | _ => cases h

/-- BUS_DONE runs only where BC presents it on the event port (R212). -/
theorem nextOf_run_busDone {s u : State} {d : Byte} (h : nextOf s = .run (.busDone d) u) :
    ∃ w rest, s.inputs = .event .bc w :: rest ∧ decodeEvent w = .instr (.busDone d) := by
  obtain ⟨-, _, rest, hin, -, ⟨w, -, hd⟩ | ⟨ag, w, rfl, hd, hp⟩⟩ := nextOf_run h
  · cases presenter_of_decodeCommand hd
  · cases hp
    exact ⟨w, rest, hin, hd⟩

/-- A completion presented within the contract meets a busy engine: an operation is outstanding, so PHASE is not Idle. -/
theorem busy_of_contractKept {s u : State} {d : Byte} (hs : Coherent s) (hsp : s.cfg.bcSpurious = false)
    (hk : ContractKept s) (h : nextOf s = .run (.busDone d) u) : s.busy = true := by
  obtain ⟨w, rest, hin, hd⟩ := nextOf_run_busDone h
  have hout : s.outst ≠ none := (hk w rest d hin hd).resolve_right (by simp [hsp])
  exact eq_true_of_ne_false fun hb => hout (hs.port.idle (hs.engine.idle_iff.mp hb))

/-- Settles O55: only a completion in the idle engine is spurious, and the contract presents none there. -/
theorem contractRulesOutSpuriousCompletions : Obligations.ContractRulesOutSpuriousCompletions := by
  intro s t hs hsp hk h hbad
  obtain ⟨hcoh, hhalt, -⟩ := invariant_iff.mp hs
  have hnone : s.halt = false → s.hcause = .none := fun hh => by simpa [hh] using hhalt
  rcases step_next h with ⟨hw, rfl⟩ | ⟨u, -, rfl⟩ | ⟨i, u, hu, ht⟩
  · simp [hnone (nextOf_wait hw).2] at hbad
  · cases hbad
  · obtain ⟨hh, -, rest, -, rfl, -⟩ := nextOf_run hu
    obtain ⟨-, rfl⟩ := exec_next.mp ht
    have hf := effect_takesFault i { s with inputs := rest }
    by_cases hc : faultOf i { s with inputs := rest } = .none
    · cases hbad.symm.trans ((hf.kept hc).2.trans (hnone hh))
    · rw [hf.taken hc] at hbad
      obtain ⟨⟨d, rfl⟩, hidle⟩ := faultOf_eq_spuriousCompletion hbad
      have hbusy : s.busy = true := busy_of_contractKept hcoh hsp hk hu
      simp [hbusy] at hidle

/-! ### The bus history (R34) -/

/-- BUS_DONE issues the one next operation, or what its target issues. -/
theorem busDone_history (d : Byte) (s : State) : ∃ ops, (busDone d s).bh = s.bh ++ ops ∧ ops.length ≤ 2 := by
  rcases busDone_cases d s with ⟨-, h⟩ | ⟨-, -, -, h⟩ | ⟨-, -, -, h⟩ | ⟨-, -, -, h⟩ | ⟨-, -, -, h⟩ <;> rw [h]
  · exact ⟨[], by simp, by simp⟩
  · exact ⟨[_], rfl, by simp⟩
  · exact ⟨[_], rfl, by simp⟩
  · exact (dispatch_move s.cont _).history
  · exact (dispatch_move s.cont _).history

/-- Settles O51: a request issues at most one operation, RD_FINISH a stop condition and the start of its write-back. -/
theorem historyOnlyGrows : Obligations.HistoryOnlyGrows := by
  intro i s t h
  obtain ⟨-, rfl⟩ := exec_next.mp h
  by_cases hi : ∃ d, i = .busDone d
  · obtain ⟨d, rfl⟩ := hi
    exact busDone_history d s
  · exact (effect_move (not_exists.mp hi) s).history

/-! ### FLAG (R27) -/

/-- What sets FLAG: VALIDATE, in RD_FINISH or in the BUS_DONE that dispatches it, and TRIG where TRIGGER_SETS_FLAG (R27). -/
def RaisesFlag (i : Instr) (s : State) : Prop :=
  i = .kRdFinish ∨ (∃ d, i = .busDone d ∧ s.busy = true ∧ s.cont = .rdFinish) ∨
    (i = .trig ∧ s.cfg.triggerSetsFlag = true)

/-- A completion's dispatch sets FLAG where its target is RD_FINISH and keeps it elsewhere. -/
theorem dispatch_flag_cases (k : Target) (s : State) :
    (dispatch k s).flag = s.flag ∨ (k = .rdFinish ∧ (dispatch k s).flag = true) := by
  by_cases h : k = .rdFinish
  · exact .inr ⟨h, h ▸ dispatch_rdFinish_flag s⟩
  · exact .inl (dispatch_flag h s)

theorem busDone_flag_cases (d : Byte) (s : State) :
    (busDone d s).flag = s.flag ∨ (s.busy = true ∧ s.cont = .rdFinish ∧ (busDone d s).flag = true) := by
  rcases busDone_cases d s with ⟨-, h⟩ | ⟨-, -, -, h⟩ | ⟨-, -, -, h⟩ | ⟨hb, -, -, h⟩ | ⟨hb, -, -, h⟩ <;> rw [h]
  · exact .inl rfl
  · exact .inl rfl
  · exact .inl rfl
  · exact (dispatch_flag_cases s.cont _).imp_right fun hk => ⟨hb, hk⟩
  · exact (dispatch_flag_cases s.cont _).imp_right fun hk => ⟨hb, hk⟩

theorem trigger_flag_cases (s : State) :
    (trigger s).flag = s.flag ∨ (s.cfg.triggerSetsFlag = true ∧ (trigger s).flag = true) := by
  unfold trigger
  split
  · exact .inr ⟨‹_›, rfl⟩
  · exact .inl (requestStart_flag .rdAddr s)

/-- What a meaning can do to FLAG: keep it, clear it by FLGCLR, or set it by one of its setters. -/
theorem effect_flag_cases (i : Instr) (s : State) :
    (effect i s).flag = s.flag ∨ i = .flgclr ∨ (RaisesFlag i s ∧ (effect i s).flag = true) := by
  cases i with
  | start _ | rdrtc | wrrtc => exact .inl (requestStart_flag _ s)
  | send a n k => exact .inl (requestSend_flag a n k s)
  | recv a n k => exact .inl (requestRecv_flag a n k s)
  | stop => exact .inl (requestStop_flag s)
  | flgclr => exact .inr (.inl rfl)
  | status | memrd _ => exact .inl rfl
  | memwr a v => left; simp only [effect, requestMemwr]; split <;> rfl
  | busDone d =>
    exact (busDone_flag_cases d s).imp_right fun ⟨hb, hk, hf⟩ => .inr ⟨.inr (.inl ⟨d, rfl, hb, hk⟩), hf⟩
  | trig => exact (trigger_flag_cases s).imp_right fun ⟨hc, hf⟩ => .inr ⟨.inr (.inr ⟨rfl, hc⟩), hf⟩
  | kRdFinish => exact .inr (.inr ⟨.inl rfl, dispatch_rdFinish_flag s⟩)
  | kNone => exact .inl rfl
  | kRdAddr => exact .inl (dispatch_flag (k := .rdAddr) (by simp) s)
  | kRdRestart => exact .inl (dispatch_flag (k := .rdRestart) (by simp) s)
  | kRdDevread => exact .inl (dispatch_flag (k := .rdDevread) (by simp) s)
  | kRdRecv => exact .inl (dispatch_flag (k := .rdRecv) (by simp) s)
  | kWrAddr => exact .inl (dispatch_flag (k := .wrAddr) (by simp) s)
  | kWrData => exact .inl (dispatch_flag (k := .wrData) (by simp) s)
  | kWrFinish => exact .inl (dispatch_flag (k := .wrFinish) (by simp) s)

/-- Settles O52: FLAG rises only by its setters, of which the switch leaves VALIDATE. -/
theorem flagRisesOnlyByValidate : Obligations.FlagRisesOnlyByValidate := by
  intro i s t hsw hlow h hhigh
  obtain ⟨-, rfl⟩ := exec_next.mp h
  rcases effect_flag_cases i s with hkept | rfl | ⟨hfin | hdone | ⟨-, htrig⟩, -⟩
  · simp [hkept, hlow] at hhigh
  · cases hhigh
  · exact .inl hfin
  · exact .inr hdone
  · simp [hsw] at htrig

/-- FLGCLR has one word (30_encoding.md R73, R82). -/
theorem eq_of_decodeCommand_flgclr {w : CommandWord} (h : decodeCommand w = .instr .flgclr) : w = 0x000007#24 := by
  unfold decodeCommand at h
  split at h
  case h_7 hop =>
    obtain ⟨hz, -⟩ := reservedZero_instr h
    simp only [Bool.and_eq_true, beq_iff_eq] at hz
    obtain ⟨⟨ha, hn⟩, hk⟩ := hz
    have hop' : w.op = 0x7#4 := BitVec.eq_of_toNat_eq hop
    rw [← enc_fields w, hop', hk, hn, ha]
    rfl
  case h_2 => obtain ⟨_, hi, -⟩ := withTarget_instr h; cases hi
  case h_3 => obtain ⟨_, hi, -⟩ := withTarget_instr h; cases hi
  case h_1 => obtain ⟨_, hi, -⟩ := withTarget_instr (reservedZero_instr h).2; cases hi
  case h_11 => cases h
  all_goals cases (reservedZero_instr h).2

/-- An event word decodes to an event. -/
theorem decodeEvent_instr {w : EventWord} {i : Instr} (h : decodeEvent w = .instr i) :
    (∃ d, i = .busDone d) ∨ i = .trig := by
  unfold decodeEvent at h
  split at h
  · cases h; exact .inl ⟨_, rfl⟩
  · cases (reservedZero_instr h).2; exact .inr rfl
  · cases h

/-- FLGCLR runs only where FG presents its word. -/
theorem nextOf_run_flgclr {s u : State} (h : nextOf s = .run .flgclr u) :
    ∃ rest, s.inputs = .command .fg 0x000007#24 :: rest := by
  obtain ⟨-, _, rest, hin, -, ⟨w, rfl, hd⟩ | ⟨ag, w, -, hd, -⟩⟩ := nextOf_run h
  · exact ⟨rest, eq_of_decodeCommand_flgclr hd ▸ hin⟩
  · obtain ⟨d, hi⟩ | hi := decodeEvent_instr hd <;> cases hi

/-- Settles O53: a wait keeps FLAG, and of the meanings only FLGCLR's clears it. -/
theorem flagStaysSetUntilCleared : Obligations.FlagStaysSetUntilCleared := by
  intro s t hset h
  rcases step_next h with ⟨-, rfl⟩ | ⟨u, hu, -⟩ | ⟨i, u, hu, ht⟩
  · exact .inl hset
  · obtain ⟨src, rest, hin, -⟩ := nextOf_reset hu
    exact .inr (.inr ⟨src, rest, hin⟩)
  · obtain ⟨-, _, rest, -, rfl, -⟩ := nextOf_run hu
    obtain ⟨-, rfl⟩ := exec_next.mp ht
    rcases effect_flag_cases i { s with inputs := rest } with hkept | rfl | ⟨-, hraised⟩
    · exact .inl (hkept.trans hset)
    · exact .inr (.inl (nextOf_run_flgclr hu))
    · exact .inl hraised

/-! ### The status word (R36) -/

/-- The status word bit by bit: BUSY lowest, then PHASE, FLAG and CONT. -/
theorem statusWord_getLsbD (s : State) (i : Nat) :
    (statusWord s).getLsbD i = (decide (i < 16) &&
      if i < 1 then (BitVec.ofBool s.busy).getLsbD i
      else if i - 1 < 2 then s.phase.code.getLsbD (i - 1)
      else if i - 1 - 2 < 1 then (BitVec.ofBool s.flag).getLsbD (i - 1 - 2)
      else s.cont.code.getLsbD (i - 1 - 2 - 1)) := by
  simp only [statusWord, BitVec.getLsbD_setWidth, BitVec.getLsbD_append]

theorem statusWord_busy (s : State) : (statusWord s).getLsbD 0 = s.busy := by
  rw [statusWord_getLsbD]
  simp

theorem statusWord_flag (s : State) : (statusWord s).getLsbD 3 = s.flag := by
  rw [statusWord_getLsbD]
  simp

theorem statusWord_phase (s : State) : (statusWord s).extractLsb' 1 2 = s.phase.code := by
  ext i hi
  rw [BitVec.getElem_extractLsb', statusWord_getLsbD]
  interval_cases i <;> simp

theorem statusWord_cont (s : State) : (statusWord s).extractLsb' 4 4 = s.cont.code := by
  ext i hi
  rw [BitVec.getElem_extractLsb', statusWord_getLsbD]
  interval_cases i <;> simp

theorem statusWord_high (s : State) : (statusWord s).extractLsb' 8 8 = 0#8 := by
  ext i hi
  rw [BitVec.getElem_extractLsb', statusWord_getLsbD]
  interval_cases i <;> simp

/-- Settles O39: the response is the status word, whose fields are BUSY, FLAG and the codes of PHASE and CONT. -/
theorem statusReadsTheStatusWord : Obligations.StatusReadsTheStatusWord := by
  intro s hh
  refine ⟨statusWord s, exec_running hh .status, statusWord_busy s, statusWord_flag s, statusWord_high s, ?_⟩
  rw [statusWord_phase, statusWord_cont]
  refine ⟨?_, ?_, ?_, ?_, ?_, ?_, ?_, ?_, ?_, ?_, ?_, ?_, ?_⟩ <;> intro h <;> rw [h] <;> rfl

end Sys2Proof.Machine

/-! PROOFS. 20_memory.md: the memory's form, the constants of CMDW and CMDR, which bytes an instruction may change, and the late
reading of a SEND's buffer. -/

namespace Sys2Proof.Machine

/-! ### The memory's form and the ROM (R50, R52) -/

/-- Settles O59: a wait and the schedule do not touch the memory, a reset lists no byte, and every meaning keeps the form. -/
theorem everyStepKeepsTheMemoryForm : Obligations.EveryStepKeepsTheMemoryForm := by
  intro s t hs h
  refine step_keeps (P := fun u => Memory.wf u = true) ?_ ?_ afterReset_wf ?_ hs h
  · exact fun _ hu => hu
  · exact fun _ _ hu => hu
  · exact fun i _ _ hu => effect_wf i hu

/-- No step changes the parameters: a reset keeps them too (00_scope.md R7 to R11). -/
theorem step_cfg {s t : State} (h : step s = .next t) : t.cfg = s.cfg := by
  rcases step_next h with ⟨-, rfl⟩ | ⟨u, hu, rfl⟩ | ⟨i, u, hu, ht⟩
  · rfl
  · obtain ⟨_, _, -, rfl⟩ := nextOf_reset hu
    rfl
  · obtain ⟨-, _, _, -, rfl, -⟩ := nextOf_run hu
    obtain ⟨hcfg, -⟩ := noInstructionWritesTheConfiguration i _ t ht
    exact hcfg

/-- Settles O60: in the memory's form, which the step keeps, the ROM reads as the parameters, which the step keeps. -/
theorem romNeverChanges : Obligations.RomNeverChanges := by
  intro s t hs h
  have hcfg : t.cfg = s.cfg := step_cfg h
  have hrom : ∀ a, isRom a = true → memRead t a = unlisted t a :=
    fun _ => memRead_rom (everyStepKeepsTheMemoryForm s t hs h)
  rw [hrom 0x08#8 rfl, hrom 0x09#8 rfl, hrom 0x0A#8 rfl, ← hcfg]
  exact ⟨rfl, rfl, rfl, rfl⟩

/-! ### Which bytes an instruction may change (R54) -/

/-- A host write that is accepted writes its byte (42_handoff.md R184). -/
theorem requestMemwr_ram {a : Addr} (h : 0x0B ≤ a.toNat) (v : Byte) (s : State) :
    requestMemwr a v s = (memWrite s a v, accepted) := by
  simp [requestMemwr, hostWritable, Nat.lt_of_succ_le h]

/-- A host write leaves every byte but the addressed one, accepted or not (42_handoff.md R184). -/
theorem memRead_requestMemwr_other {a b : Addr} (h : b ≠ a) (v : Byte) (s : State) :
    memRead (requestMemwr a v s).1 b = memRead s b := by
  unfold requestMemwr
  split
  · exact memRead_memWrite_other s v h
  · rfl

/-- A received byte changes no byte but the one at BPTR (40_bus_engine.md R113). -/
theorem memRead_storeReceived_other {s : State} {b : Addr} (h : b ≠ s.bptr) (d : Byte) :
    memRead (storeReceived d s) b = memRead s b :=
  memRead_memWrite_other s d h

@[simp] theorem memRead_trigger (s : State) (b : Addr) : memRead (trigger s) b = memRead s b := by
  unfold trigger
  split <;> exact memRead_requestStart .rdAddr s b

/-- Dispatch changes no byte but those of the register block, and these only in RD_FINISH. -/
theorem memRead_dispatch_frame {k : Target} {b : Addr} (h : ¬ (k = .rdFinish ∧ b.toNat < 8)) (s : State) :
    memRead (dispatch k s) b = memRead s b := by
  by_cases hk : k = .rdFinish
  · subst hk
    exact memRead_dispatch_rdFinish s (Nat.le_of_not_lt fun hb => h ⟨rfl, hb⟩)
  · exact memRead_dispatch hk s b

/-- BUS_DONE changes the byte at BPTR in Receiving, and those of the register block where it may dispatch RD_FINISH (R54,
41_continuations.md R157). -/
theorem memRead_busDone_frame {s : State} {b : Addr} (hstore : ¬ (s.busy = true ∧ s.phase = .receiving ∧ b = s.bptr))
    (hfinish : ¬ (s.busy = true ∧ s.cont = .rdFinish ∧ b.toNat < 8)) (d : Byte) :
    memRead (busDone d s) b = memRead s b := by
  have hstored : s.busy = true → s.phase = .receiving → memRead (storeReceived d (delivered s)) b = memRead s b :=
    fun hb hp => memRead_storeReceived_other (s := delivered s) (fun h => hstore ⟨hb, hp, h⟩) d
  have hdispatched : s.busy = true → ∀ u, memRead (dispatch s.cont (engineIdle u)) b = memRead u b :=
    fun hb u => memRead_dispatch_frame (fun h => hfinish ⟨hb, h⟩) (engineIdle u)
  rcases busDone_cases d s with ⟨-, he⟩ | ⟨-, -, -, he⟩ | ⟨hb, hp, -, he⟩ | ⟨hb, hp, -, he⟩ | ⟨hb, -, -, he⟩ <;> rw [he]
  · rfl
  · rfl
  · exact hstored hb hp
  · exact (hdispatched hb _).trans (hstored hb hp)
  · exact hdispatched hb (delivered s)

/-- Every meaning but MEMWR's, BUS_DONE's and RD_FINISH's leaves every byte (R54). -/
theorem memRead_effect {i : Instr} (hw : ∀ a v, i ≠ .memwr a v) (hd : ∀ d, i ≠ .busDone d) (hf : i ≠ .kRdFinish)
    (s : State) (b : Addr) : memRead (effect i s) b = memRead s b := by
  cases i with
  | start _ | rdrtc | wrrtc => exact memRead_requestStart _ s b
  | send a n k => exact memRead_requestSend a n k s b
  | recv a n k => exact memRead_requestRecv a n k s b
  | stop => exact memRead_requestStop s b
  | flgclr | status | memrd _ | kNone => rfl
  | memwr a v => exact absurd rfl (hw a v)
  | busDone d => exact absurd rfl (hd d)
  | trig => exact memRead_trigger s b
  | kRdAddr => exact memRead_dispatch (k := .rdAddr) (by simp) s b
  | kRdRestart => exact memRead_dispatch (k := .rdRestart) (by simp) s b
  | kRdDevread => exact memRead_dispatch (k := .rdDevread) (by simp) s b
  | kRdRecv => exact memRead_dispatch (k := .rdRecv) (by simp) s b
  | kRdFinish => exact absurd rfl hf
  | kWrAddr => exact memRead_dispatch (k := .wrAddr) (by simp) s b
  | kWrData => exact memRead_dispatch (k := .wrData) (by simp) s b
  | kWrFinish => exact memRead_dispatch (k := .wrFinish) (by simp) s b

/-- Settles O48: each of the three that store by its own frame, all others by the one lemma that they store nothing. -/
theorem onlyStoresChangeTheMemory : Obligations.OnlyStoresChangeTheMemory := by
  intro i s t h
  obtain ⟨-, rfl⟩ := exec_next.mp h
  refine ⟨fun hw hd hf b => memRead_effect hw hd hf s b, ?_, ?_, ?_⟩
  · rintro a v rfl b hb
    exact memRead_requestMemwr_other hb v s
  · rintro d rfl b hstore hfinish
    exact memRead_busDone_frame hstore hfinish d
  · rintro rfl b hb
    exact memRead_dispatch_rdFinish s hb

/-! ### A SEND's buffer is read late (R63) -/

theorem isRom_eq_false_of_ram {a : Addr} (h : 0x0B ≤ a.toNat) : isRom a = false := by
  simp only [isRom, Bool.and_eq_false_imp, decide_eq_true_eq, decide_eq_false_iff_not]
  omega

/-- Settles O24: the host's write touches the memory alone, and the completion hands over what BPTR's byte reads then. -/
theorem sendReadsItsBufferLate : Obligations.SendReadsItsBufferLate := by
  intro s v d hh hb hp hn hram
  have hmore : 0 < s.brem.toNat := Nat.pos_of_ne_zero fun h => hn (BitVec.eq_of_toNat_eq h)
  have hwrite : exec (.memwr s.bptr v) s = .next (respond (memWrite s s.bptr v, accepted)) := by
    rw [exec_running hh, effect, requestMemwr_ram hram]
  refine ⟨_, _, hwrite, exec_running (by exact hh) _, ?_⟩
  rw [effect, silent_bh, busDone_sending_more (by exact hb) (by exact hp) (by exact hmore)]
  simp [memRead_memWrite_self s v (isRom_eq_false_of_ram hram)]

end Sys2Proof.Machine

/-! PROOFS. 30_encoding.md: decoding and encoding, the refusals at decode, and MEMFILL. -/

namespace Sys2Proof

/-! ### What a word of each operation decodes to (R71, R74, R81 to R84) -/

@[simp] theorem withTarget_code (k : Target) (f : Target → Instr) : withTarget k.code f = .instr (f k) := by
  simp [withTarget]

/-- Identifiers from 0x9 on name no target (R80, R84). -/
theorem withTarget_reserved {k : Nibble} (h : 0x9 ≤ k.toNat) (f : Target → Instr) :
    withTarget k f = .refuse .reservedContinuation := by
  have hnone : Target.ofCode k = none := by
    unfold Target.ofCode
    split
    case h_10 => rfl
    all_goals omega
  simp [withTarget, hnone]

theorem reservedZero_refuse {zero : Bool} (h : ¬ zero = true) (rest : Decoded) :
    reservedZero zero rest = .refuse .reservedField :=
  if_neg h

theorem decodeCommand_start {w : CommandWord} (h : w.op = 0x1#4) :
    decodeCommand w = reservedZero (w.a == 0 && w.n == 0) (withTarget w.k .start) := by
  simp [decodeCommand, h]

theorem decodeCommand_send {w : CommandWord} (h : w.op = 0x2#4) :
    decodeCommand w = withTarget w.k (.send w.a w.n) := by
  simp [decodeCommand, h]

theorem decodeCommand_recv {w : CommandWord} (h : w.op = 0x3#4) :
    decodeCommand w = withTarget w.k (.recv w.a w.n) := by
  simp [decodeCommand, h]

/-- STOP, RDRTC, WRRTC, FLGCLR and STATUS have no operand: A, N and K are all reserved-zero (R72). -/
theorem decodeCommand_noOperand {w : CommandWord} (hlo : 0x4 ≤ w.op.toNat) (hhi : w.op.toNat ≤ 0x8) :
    ∃ i, decodeCommand w = reservedZero (w.a == 0 && w.n == 0 && w.k == 0) (.instr i) := by
  unfold decodeCommand
  generalize w.op.toNat = op at hlo hhi
  interval_cases op <;> exact ⟨_, rfl⟩

theorem decodeCommand_memrd {w : CommandWord} (h : w.op = 0x9#4) :
    decodeCommand w = reservedZero (w.n == 0 && w.k == 0) (.instr (.memrd w.a)) := by
  simp [decodeCommand, h]

theorem decodeCommand_memwr {w : CommandWord} (h : w.op = 0xA#4) :
    decodeCommand w = reservedZero (w.k == 0) (.instr (.memwr w.a w.n)) := by
  simp [decodeCommand, h]

theorem decodeCommand_reserved {w : CommandWord} (h : w.op = 0x0#4 ∨ 0xB ≤ w.op.toNat) :
    decodeCommand w = .refuse .reservedOpcode := by
  have hop : w.op.toNat = 0 ∨ 0xB ≤ w.op.toNat := h.imp_left fun h0 => by simp [h0]
  unfold decodeCommand
  split
  case h_11 => rfl
  all_goals omega

theorem decodeEvent_busDone {w : EventWord} (h : w.ev = 0x1#4) : decodeEvent w = .instr (.busDone w.d) := by
  simp [decodeEvent, h]

theorem decodeEvent_trig {w : EventWord} (h : w.ev = 0x2#4) :
    decodeEvent w = reservedZero (w.d == 0) (.instr .trig) := by
  simp [decodeEvent, h]

theorem decodeEvent_reserved {w : EventWord} (h : w.ev = 0x0#4 ∨ 0x3 ≤ w.ev.toNat) :
    decodeEvent w = .refuse .reservedEvent := by
  have hev : w.ev.toNat = 0 ∨ 0x3 ≤ w.ev.toNat := h.imp_left fun h0 => by simp [h0]
  unfold decodeEvent
  split
  case h_3 => rfl
  all_goals omega

theorem decodeTarget_code (k : Target) : decodeTarget k.code = .instr k.instr :=
  withTarget_code k Target.instr

/-! ### Decoding and encoding are inverse (R73, R78, R80, R85) -/

/-- Settles O1: a command's or event's word gives its fields back, so its operation's row of the decoder reads the operands; a
target's identifier names the target. -/
theorem decodeOfEncodeIsTheInstruction : Obligations.DecodeOfEncodeIsTheInstruction := by
  intro i
  cases i with
  | start k => simp [encode, decode, decodeCommand_start, reservedZero]
  | send a n k => simp [encode, decode, decodeCommand_send]
  | recv a n k => simp [encode, decode, decodeCommand_recv]
  | stop | rdrtc | wrrtc | flgclr | status => rfl
  | memrd a => simp [encode, decode, decodeCommand_memrd, reservedZero]
  | memwr a v => simp [encode, decode, decodeCommand_memwr, reservedZero]
  | busDone d => simp [encode, decode, decodeEvent_busDone]
  | trig => rfl
  | kNone => exact decodeTarget_code .none
  | kRdAddr => exact decodeTarget_code .rdAddr
  | kRdRestart => exact decodeTarget_code .rdRestart
  | kRdDevread => exact decodeTarget_code .rdDevread
  | kRdRecv => exact decodeTarget_code .rdRecv
  | kRdFinish => exact decodeTarget_code .rdFinish
  | kWrAddr => exact decodeTarget_code .wrAddr
  | kWrData => exact decodeTarget_code .wrData
  | kWrFinish => exact decodeTarget_code .wrFinish

/-- A command word is the encoding of any values that its fields hold. -/
theorem enc_eq_of_fields {w : CommandWord} {op k : Nibble} {n : Byte} {a : Addr} (hop : w.op.toNat = op.toNat)
    (hk : w.k = k) (hn : w.n = n) (ha : w.a = a) : enc op k n a = w := by
  rw [← BitVec.eq_of_toNat_eq hop, ← hk, ← hn, ← ha, enc_fields]

/-- A word whose A, N and K are zero is its operation's word without operands. -/
theorem enc_eq_of_noOperand {w : CommandWord} {op : Nibble} (hop : w.op.toNat = op.toNat)
    (hz : (w.a == 0 && w.n == 0 && w.k == 0) = true) : enc op 0 0 0 = w := by
  simp only [Bool.and_eq_true, beq_iff_eq] at hz
  obtain ⟨⟨ha, hn⟩, hk⟩ := hz
  exact enc_eq_of_fields hop hk hn ha

theorem encEvent_eq_of_fields {w : EventWord} {ev : Nibble} {d : Byte} (hev : w.ev.toNat = ev.toNat) (hd : w.d = d) :
    encEvent ev d = w := by
  rw [← BitVec.eq_of_toNat_eq hev, ← hd, encEvent_fields]

/-- A command word that decodes: its reserved-zero fields are zero and K is its target's code, so its fields are those of the
encoding. -/
theorem encode_of_decodeCommand {w : CommandWord} {i : Instr} (h : decodeCommand w = .instr i) :
    encode i = .command w := by
  unfold decodeCommand at h
  split at h
  case h_1 hop =>
    obtain ⟨hz, h⟩ := reservedZero_instr h
    obtain ⟨t, rfl, hk⟩ := withTarget_instr h
    simp only [Bool.and_eq_true, beq_iff_eq] at hz
    exact congrArg _ (enc_eq_of_fields hop hk.symm hz.2 hz.1)
  case h_2 hop =>
    obtain ⟨t, rfl, hk⟩ := withTarget_instr h
    exact congrArg _ (enc_eq_of_fields hop hk.symm rfl rfl)
  case h_3 hop =>
    obtain ⟨t, rfl, hk⟩ := withTarget_instr h
    exact congrArg _ (enc_eq_of_fields hop hk.symm rfl rfl)
  case h_9 hop =>
    obtain ⟨hz, h⟩ := reservedZero_instr h
    simp only [Bool.and_eq_true, beq_iff_eq] at hz
    cases h
    exact congrArg _ (enc_eq_of_fields hop hz.2 hz.1 rfl)
  case h_10 hop =>
    obtain ⟨hz, h⟩ := reservedZero_instr h
    cases h
    exact congrArg _ (enc_eq_of_fields hop (beq_iff_eq.mp hz) rfl rfl)
  case h_11 => cases h
  all_goals
    rename_i hop
    obtain ⟨hz, h⟩ := reservedZero_instr h
    cases h
    exact congrArg _ (enc_eq_of_noOperand hop hz)

theorem encode_of_decodeEvent {w : EventWord} {i : Instr} (h : decodeEvent w = .instr i) : encode i = .event w := by
  unfold decodeEvent at h
  split at h
  case h_1 hev =>
    cases h
    exact congrArg _ (encEvent_eq_of_fields hev rfl)
  case h_2 hev =>
    obtain ⟨hz, h⟩ := reservedZero_instr h
    cases h
    exact congrArg _ (encEvent_eq_of_fields hev (beq_iff_eq.mp hz))
  case h_3 => cases h

/-- The row of a target is encoded by the target's identifier. -/
theorem encode_target (k : Target) : encode k.instr = .target k.code := by
  cases k <;> rfl

theorem encode_of_decodeTarget {k : Nibble} {i : Instr} (h : decodeTarget k = .instr i) : encode i = .target k := by
  obtain ⟨t, rfl, rfl⟩ := withTarget_instr h
  exact encode_target t

/-- Settles O2: port by port. -/
theorem encodeOfDecodeIsTheWord : Obligations.EncodeOfDecodeIsTheWord := by
  intro w i h
  cases w with
  | command w => exact encode_of_decodeCommand h
  | event w => exact encode_of_decodeEvent h
  | target k => exact encode_of_decodeTarget h

/-- Settles O3: the decoder run on the five words. -/
theorem exampleWordsDecode : Obligations.ExampleWordsDecode := by
  unfold Obligations.ExampleWordsDecode
  decide

end Sys2Proof

namespace Sys2Proof.Machine

/-! ### Words refused at decode (R81 to R84) -/

/-- A word of FG that the decoder refuses ends the step with the same refusal. -/
theorem step_command_refused {s : State} {w : CommandWord} {rest : List Input} {r : DecodeRefusal}
    (hh : s.halt = false) (hin : s.inputs = .command .fg w :: rest) (hd : decodeCommand w = .refuse r) :
    step s = .refused (refusalOf r) := by
  have hn : nextOf s = .refuse (refusalOf r) := by
    rw [nextOf_commandFirst hin, whileEnabled_running hh, onCommand, if_pos rfl, hd, takeWord]
  simp [step, hn]

/-- So does an event word of either agent of the event port, whichever of the two presents it. -/
theorem step_event_refused {s : State} {agent : Agent} {w : EventWord} {rest : List Input} {r : DecodeRefusal}
    (hh : s.halt = false) (hag : agent = .bc ∨ agent = .trg) (hin : s.inputs = .event agent w :: rest)
    (hd : decodeEvent w = .refuse r) : step s = .refused (refusalOf r) := by
  have hn : nextOf s = .refuse (refusalOf r) := by
    rw [nextOf_eventFirst hin, whileEnabled_running hh, onEvent, if_pos hag, hd, takeWord]
  simp [step, hn]

/-- Settles O7: no row of the decoder has such an opcode. -/
theorem reservedOpcodeIsRefused : Obligations.ReservedOpcodeIsRefused := by
  intro s w rest hh hin hop
  exact step_command_refused hh hin (decodeCommand_reserved hop)

/-- Each operation refuses a word with a non-zero bit in a field that is reserved-zero for it (R72, R82). -/
theorem decodeCommand_reservedField {w : CommandWord}
    (h : (w.op = 0x1#4 ∧ (w.a ≠ 0#8 ∨ w.n ≠ 0#8)) ∨
      (0x4 ≤ w.op.toNat ∧ w.op.toNat ≤ 0x8 ∧ (w.a ≠ 0#8 ∨ w.n ≠ 0#8 ∨ w.k ≠ 0#4)) ∨
      (w.op = 0x9#4 ∧ (w.n ≠ 0#8 ∨ w.k ≠ 0#4)) ∨ (w.op = 0xA#4 ∧ w.k ≠ 0#4)) :
    decodeCommand w = .refuse .reservedField := by
  rcases h with ⟨hop, hz⟩ | ⟨hlo, hhi, hz⟩ | ⟨hop, hz⟩ | ⟨hop, hz⟩
  · rw [decodeCommand_start hop]
    exact reservedZero_refuse (by simpa [imp_iff_not_or] using hz) _
  · obtain ⟨i, hd⟩ := decodeCommand_noOperand hlo hhi
    rw [hd]
    exact reservedZero_refuse (by simpa [imp_iff_not_or, or_assoc] using hz) _
  · rw [decodeCommand_memrd hop]
    exact reservedZero_refuse (by simpa [imp_iff_not_or] using hz) _
  · rw [decodeCommand_memwr hop]
    exact reservedZero_refuse (by simpa [imp_iff_not_or] using hz) _

/-- Settles O8: opcode by opcode. -/
theorem reservedFieldIsRefused : Obligations.ReservedFieldIsRefused := by
  intro s w rest hh hin hfield
  exact step_command_refused hh hin (decodeCommand_reservedField hfield)

/-- Settles O9: EV names no event, or TRIG's reserved-zero field is not zero. -/
theorem reservedEventIsRefused : Obligations.ReservedEventIsRefused := by
  intro s agent w rest hh hag hin
  constructor
  · intro hev
    exact step_event_refused hh hag hin (decodeEvent_reserved hev)
  · intro hev hz
    refine step_event_refused hh hag hin (r := .reservedField) ?_
    rw [decodeEvent_trig hev]
    exact reservedZero_refuse (by simpa using hz) _

/-- Settles O10: K is read, START's reserved-zero fields being zero, and names no target. -/
theorem reservedContinuationIsRefused : Obligations.ReservedContinuationIsRefused := by
  intro s w rest hh hin hk hop
  refine step_command_refused hh hin (r := .reservedContinuation) ?_
  rcases hop with ⟨hop, ha, hn⟩ | hop | hop
  · rw [decodeCommand_start hop, ha, hn]
    exact withTarget_reserved hk _
  · rw [decodeCommand_send hop, withTarget_reserved hk]
  · rw [decodeCommand_recv hop, withTarget_reserved hk]

/-! ### MEMFILL (R77) -/

theorem execAll_cons {s : State} (h : s.halt = false) (i : Instr) (is : List Instr) :
    execAll (i :: is) s = execAll is (effect i s) := by
  simp [execAll, exec_running h]

/-- What filling `bytes` in at `n` and up makes of `s`: the engine, HALT, FLAG and the history stay, the bytes stand at their
addresses, and every other address reads as before. The first address is a number, so that the one past the last may be 256. -/
structure Filled (s : State) (n : Nat) (bytes : List Byte) (t : State) : Prop where
  engine : SameEngine s t
  halt : t.halt = s.halt
  bh : t.bh = s.bh
  flag : t.flag = s.flag
  written : ∀ i (h : i < bytes.length), memRead t (BitVec.ofNat 8 (n + i)) = bytes[i]
  kept : ∀ b : Addr, (b.toNat < n ∨ n + bytes.length ≤ b.toNat) → memRead t b = memRead s b

theorem Filled.nil (s : State) (n : Nat) : Filled s n [] s where
  engine := SameEngine.refl s
  halt := rfl
  bh := rfl
  flag := rfl
  written := fun _ h => absurd h (Nat.not_lt_zero _)
  kept := fun _ _ => rfl

/-- The first byte written, then the others above it: none of those writes reaches the first byte's address again. -/
theorem Filled.cons {s t : State} {n : Nat} {v : Byte} {bytes : List Byte} (hram : 0x0B ≤ n) (hn : n < 256)
    (h : Filled (respond (memWrite s (BitVec.ofNat 8 n) v, accepted)) (n + 1) bytes t) : Filled s n (v :: bytes) t := by
  have haddr : (BitVec.ofNat 8 n).toNat = n := by simp; omega
  have hengine : SameEngine s (respond (memWrite s (BitVec.ofNat 8 n) v, accepted)) := ⟨rfl, rfl, rfl, rfl, rfl, rfl⟩
  refine ⟨hengine.trans h.engine, h.halt, h.bh, h.flag, fun i hi => ?_, fun b hb => ?_⟩
  · cases i with
    | zero =>
      rw [Nat.add_zero, h.kept _ (.inl (by omega)), memRead_respond]
      exact memRead_memWrite_self s v (isRom_eq_false_of_ram (by omega))
    | succ j =>
      rw [show n + (j + 1) = n + 1 + j by omega, h.written j (Nat.lt_of_succ_lt_succ hi)]
      rfl
  · have hne : b ≠ BitVec.ofNat 8 n := by
      rintro rfl
      rw [haddr, List.length_cons] at hb
      omega
    rw [h.kept b (by rw [List.length_cons] at hb; omega), memRead_respond]
    exact memRead_memWrite_other s v hne

/-- The expansion of MEMFILL fills its range, by induction on the bytes. -/
theorem execAll_memfillFrom (bytes : List Byte) {s : State} {n : Nat} (hh : s.halt = false) (hram : 0x0B ≤ n)
    (hend : n + bytes.length ≤ 256) :
    ∃ t, execAll (memfillFrom (BitVec.ofNat 8 n) bytes) s = .next t ∧ Filled s n bytes t := by
  induction bytes generalizing s n with
  | nil => exact ⟨s, rfl, Filled.nil s n⟩
  | cons v bytes ih =>
    rw [List.length_cons] at hend
    have hwrite : effect (.memwr (BitVec.ofNat 8 n) v) s = respond (memWrite s (BitVec.ofNat 8 n) v, accepted) := by
      rw [effect, requestMemwr_ram (by simp; omega)]
    have hnext : BitVec.ofNat 8 n + 1 = BitVec.ofNat 8 (n + 1) := by rw [BitVec.ofNat_add]; rfl
    obtain ⟨t, hrun, hfill⟩ :=
      ih (s := respond (memWrite s (BitVec.ofNat 8 n) v, accepted)) (n := n + 1) hh (by omega) (by omega)
    refine ⟨t, ?_, hfill.cons hram (by omega)⟩
    rw [memfillFrom, execAll_cons hh, hwrite, hnext, hrun]

/-- MEMFILL has an expansion exactly where its range lies in RAM (R77). -/
theorem expandMemfill_eq_some {a : Addr} {bytes : List Byte} {is : List Instr} :
    expandMemfill a bytes = some is ↔
      0x0B ≤ a.toNat ∧ a.toNat + bytes.length ≤ 256 ∧ memfillFrom a bytes = is := by
  simp [expandMemfill, memfillOk, and_assoc]

/-- Settles O43: the expansion's range lies in RAM, and its MEMWRs fill it. -/
theorem memfillWritesItsBytes : Obligations.MemfillWritesItsBytes := by
  intro s a bytes is hh hexp
  obtain ⟨hram, hend, rfl⟩ := expandMemfill_eq_some.mp hexp
  obtain ⟨t, hrun, hfill⟩ := execAll_memfillFrom bytes hh hram hend
  rw [BitVec.ofNat_toNat, BitVec.setWidth_eq] at hrun
  obtain ⟨hbusy, hphase, hcont, hbptr, hbrem, houtst⟩ := hfill.engine
  refine ⟨t, hrun, hfill.halt.trans hh, hbusy, hphase, hcont, hbptr, hbrem, houtst, hfill.bh, hfill.flag, fun i hi => ?_,
    hfill.kept⟩
  rw [← hfill.written i hi, BitVec.ofNat_add, BitVec.ofNat_toNat, BitVec.setWidth_eq]

end Sys2Proof.Machine

/-! PROOFS. 40_bus_engine.md: the engine's four requests, the completion interrupt, and whole SEND and RECV steps. -/

namespace Sys2Proof.Machine

/-! ### The engine's arithmetic (R117) -/

theorem count_pos {n : Count} (h : n ≠ 0#8) : 0 < n.toNat :=
  Nat.pos_of_ne_zero fun h0 => h (BitVec.eq_of_toNat_eq h0)

theorem lessOne_eq_sub {n : Count} (h : n ≠ 0#8) : lessOne n = n - 1#8 := by
  have hpos := count_pos h
  apply BitVec.eq_of_toNat_eq
  rw [lessOne_toNat, BitVec.toNat_sub]
  simp
  omega

/-! ### The requests (R100 to R110) -/

/-- Settles O12: both answers of START's request. -/
theorem startRequestsAStartCondition : Obligations.StartRequestsAStartCondition := by
  intro s k hh
  constructor
  · intro hb
    rw [exec_running hh, effect, requestStart_idle hb]
    rfl
  · intro hb
    rw [exec_running hh, effect, requestStart_busy hb]
    rfl

/-- Settles O13: SEND's four answers, in the order of its checks. -/
theorem sendHandsOverItsFirstByte : Obligations.SendHandsOverItsFirstByte := by
  intro s a n k hh
  rw [exec_running hh, effect]
  refine ⟨?_, fun hn hb => ?_, fun hn hb hr => ?_, fun hn hb hr => ?_⟩
  · rintro rfl
    rw [requestSend_zero]
    rfl
  · rw [requestSend_busy hn hb]
    rfl
  · rw [requestSend_range hn hb (by simpa [sendOk] using hr)]
    rfl
  · rw [requestSend_accepted hn hb (sendOk_iff.mpr hr), lessOne_eq_sub hn]
    rfl

/-- Settles O14: RECV's four answers, in the order of its checks. -/
theorem recvArmsItsFirstByte : Obligations.RecvArmsItsFirstByte := by
  intro s a n k hh
  rw [exec_running hh, effect]
  refine ⟨?_, fun hn hb => ?_, fun hn hb hr => ?_, fun hn hb hr hrom => ?_⟩
  · rintro rfl
    rw [requestRecv_zero]
    rfl
  · rw [requestRecv_busy hn hb]
    rfl
  · have hout : recvOk a n = false := by
      rw [← Bool.not_eq_true, recvOk_iff]
      omega
    rw [requestRecv_range hn hb hout]
    rfl
  · rw [requestRecv_accepted hn hb (recvOk_iff.mpr ⟨hr, hrom⟩)]
    rfl

/-- Settles O15: both answers of STOP's request. -/
theorem stopRequestsAStopCondition : Obligations.StopRequestsAStopCondition := by
  intro s hh
  constructor
  · intro hb
    rw [exec_running hh, effect, requestStop_idle hb]
    rfl
  · intro hb
    rw [exec_running hh, effect, requestStop_busy hb]
    rfl

/-- Settles O17: the count is checked before BUSY and before the range. -/
theorem zeroCountChangesNothing : Obligations.ZeroCountChangesNothing := by
  intro s a k hh
  rw [exec_running hh, exec_running hh, effect, effect, requestSend_zero, requestRecv_zero]
  exact ⟨rfl, rfl⟩

/-- The answer of a request that begins an engine step: accepted only in the idle engine, which it makes busy, and rejected with
nothing written in the busy one (R102). -/
structure OneAtATime (s : State) (r : Answer) : Prop where
  accepts : r.2 = accepted → s.busy = false ∧ r.1.busy = true
  rejects : s.busy = true → r = (s, rejected)

theorem OneAtATime.rejected {s : State} {r : Answer} (h : r = (s, rejected)) : OneAtATime s r where
  accepts ha := by simp [h, Machine.rejected, accepted] at ha
  rejects _ := h

theorem OneAtATime.answered {s : State} {r : Answer} (hb : s.busy = false) (h : r.2 = accepted → r.1.busy = true) :
    OneAtATime s r where
  accepts ha := ⟨hb, h ha⟩
  rejects hs := by simp [hb] at hs

theorem requestStart_oneAtATime (k : Target) (s : State) : OneAtATime s (requestStart k s) := by
  cases hb : s.busy with
  | true => exact .rejected (requestStart_busy hb k)
  | false => exact .answered hb fun _ => by rw [requestStart_idle hb]; rfl

theorem requestSend_oneAtATime (a : Addr) {n : Count} (hn : n ≠ 0#8) (k : Target) (s : State) :
    OneAtATime s (requestSend a n k s) := by
  rcases requestSend_cases a n k s with ⟨h0, -⟩ | ⟨-, -, h⟩ | ⟨-, hb, -, h⟩ | ⟨-, hb, -, h⟩
  · exact absurd h0 hn
  · exact .rejected h
  · exact .answered hb fun ha => by simp [h, accepted] at ha
  · exact .answered hb fun _ => by rw [h]; rfl

theorem requestRecv_oneAtATime (a : Addr) {n : Count} (hn : n ≠ 0#8) (k : Target) (s : State) :
    OneAtATime s (requestRecv a n k s) := by
  rcases requestRecv_cases a n k s with ⟨h0, -⟩ | ⟨-, -, h⟩ | ⟨-, hb, -, h⟩ | ⟨-, hb, -, h⟩
  · exact absurd h0 hn
  · exact .rejected h
  · exact .answered hb fun ha => by simp [h, accepted] at ha
  · exact .answered hb fun _ => by rw [h]; rfl

/-- Settles O16: each of the three is the response to a request that admits one engine step at a time. -/
theorem oneEngineStepAtATime : Obligations.OneEngineStepAtATime := by
  intro s t i k a n hi h
  obtain ⟨-, rfl⟩ := exec_next.mp h
  obtain ⟨r, hr, hone⟩ : ∃ r, effect i s = respond r ∧ OneAtATime s r := by
    rcases hi with rfl | ⟨hn, rfl | rfl⟩
    · exact ⟨_, rfl, requestStart_oneAtATime k s⟩
    · exact ⟨_, rfl, requestSend_oneAtATime a hn k s⟩
    · exact ⟨_, rfl, requestRecv_oneAtATime a hn k s⟩
  rw [hr]
  refine ⟨hone.accepts, fun hb => ?_⟩
  rw [hone.rejects hb]
  rfl

/-- Settles O50: of what everything but BUS_DONE can do to the engine, all but leaving it alone asks for BUSY = 0. -/
theorem busyEngineAnswersToBusDoneAlone : Obligations.BusyEngineAnswersToBusDoneAlone := by
  intro i s t hb hi h
  obtain ⟨-, rfl⟩ := exec_next.mp h
  cases effect_move hi s with
  | kept he hbh => exact ⟨he.busy.trans hb, he.phase, he.cont, he.bptr, he.brem, he.outst, hbh⟩
  | stopped hs _ _ => simp [hb] at hs
  | begun hs _ _ => simp [hb] at hs

/-! ### BUS_DONE (R111 to R115) -/

/-- Settles O19: BUSY is looked at before anything else. -/
theorem spuriousCompletionHalts : Obligations.SpuriousCompletionHalts := by
  intro s d hh hb
  rw [exec_running hh, effect, busDone_idle hb]
  rfl

theorem busDone_receiving_more {s : State} (hb : s.busy = true) (hp : s.phase = .receiving)
    (hn : 0 < (lessOne s.brem).toNat) (d : Byte) :
    busDone d s = issue (.rx (ackFor (lessOne s.brem))) (storeReceived d (delivered s)) := by
  rw [busDone_receiving hb hp]
  exact if_pos hn

theorem busDone_receiving_last {s : State} (hb : s.busy = true) (hp : s.phase = .receiving)
    (hn : (lessOne s.brem).toNat = 0) (d : Byte) :
    busDone d s = dispatch s.cont (engineIdle (delivered (memWrite s s.bptr d))) := by
  rw [busDone_receiving hb hp]
  exact if_neg (Nat.not_lt.mpr hn.le)

/-- A BUS_DONE that ends a step in the state `u` is the dispatch of its target in the cleared engine (R115). -/
theorem exec_busDone_completed {s u : State} {d : Byte} {k : Target} (hs : s.halt = false) (hu : u.halt = false)
    (h : busDone d s = dispatch k (engineIdle (delivered u))) :
    ∃ p r m, exec (.busDone d) s = exec k.instr (afterCompletion u p r m) := by
  refine ⟨Config.bptrDraw u.draws, Config.bremDraw u.draws, u.draws + 1, ?_⟩
  rw [exec_running hs, effect, h, exec_running (by exact hu), effect_target]
  rfl

/-- Settles O20: BREM tells the next byte from the step's end. -/
theorem sendingArmHandsOverTheNextByte : Obligations.SendingArmHandsOverTheNextByte := by
  intro s d hh hb hp
  constructor
  · intro hn
    rw [exec_running hh, effect, busDone_sending_more hb hp (count_pos hn), lessOne_eq_sub hn]
    rfl
  · intro hn
    exact exec_busDone_completed hh hh (busDone_sending_last hb hp (by simp [hn]) d)

theorem ackFor_lessOne (n : Count) : ackFor (lessOne n) = decide (2 < n.toNat) := by
  rw [ackFor, lessOne_toNat, decide_eq_decide]
  omega

/-- Settles O21: what remains of BREM tells the next receive from the step's end, and the store is one byte written. -/
theorem receivingArmStoresTheByte : Obligations.ReceivingArmStoresTheByte := by
  intro s d hh hb hp hn
  refine ⟨fun h1 => ?_, fun h1 => ?_, fun hrom => memRead_memWrite_self s d hrom, fun _ ha => memRead_memWrite_other s d ha⟩
  · have hmore : 0 < (lessOne s.brem).toNat := by
      have hne : s.brem.toNat ≠ 1 := fun h => h1 (BitVec.eq_of_toNat_eq h)
      have hpos := count_pos hn
      rw [lessOne_toNat]
      omega
    rw [exec_running hh, effect, busDone_receiving_more hb hp hmore, ackFor_lessOne]
    simp only [storeReceived, delivered_brem, lessOne_eq_sub hn]
    rfl
  · exact exec_busDone_completed hh hh (busDone_receiving_last hb hp (by simp [h1, lessOne_toNat]) d)

/-- Settles O22: both phases complete at once. -/
theorem commandArmDispatchesAtOnce : Obligations.CommandArmDispatchesAtOnce := by
  intro s d hh hb hp
  exact exec_busDone_completed hh hh (busDone_command hb hp d)

/-- Outside Receiving no arm reads the data byte. -/
theorem busDone_data_ignored {s : State} (hp : s.phase ≠ .receiving) (d e : Byte) : busDone d s = busDone e s := by
  cases hb : s.busy with
  | false => rw [busDone_idle hb, busDone_idle hb]
  | true =>
    cases hph : s.phase with
    | idle => rw [busDone_command hb (.inr hph), busDone_command hb (.inr hph)]
    | command => rw [busDone_command hb (.inl hph), busDone_command hb (.inl hph)]
    | sending =>
      rcases Nat.eq_zero_or_pos s.brem.toNat with hn | hn
      · rw [busDone_sending_last hb hph hn, busDone_sending_last hb hph hn]
      · rw [busDone_sending_more hb hph hn, busDone_sending_more hb hph hn]
    | receiving => exact absurd hph hp

/-- Settles O23: BUS_DONE is its handler's effect, which ignores the byte. -/
theorem dataByteMattersOnlyInReceiving : Obligations.DataByteMattersOnlyInReceiving := by
  intro s d e hp
  rw [exec_eq, exec_eq, whileRunning, whileRunning, effect, effect, busDone_data_ignored hp d e]

/-! ### A SEND or RECV step, byte by byte (R105, R109) -/

/-- Completions with nothing between them, at most `n` in all: what holds of the bytes delivered and the state, and is kept by
each completion, holds after all of them. -/
theorem completions_progress {P : List Byte → State → Prop} {n : Nat}
    (hnext : ∀ done d t, done.length < n → P done t → t.halt = false ∧ P (done ++ [d]) (effect (.busDone d) t))
    {ds done : List Byte} {s : State} (hlen : done.length + ds.length ≤ n) (hs : P done s) :
    ∃ t, completions ds s = .next t ∧ P (done ++ ds) t := by
  induction ds generalizing done s with
  | nil => exact ⟨s, rfl, by simpa using hs⟩
  | cons d ds ih =>
    rw [List.length_cons] at hlen
    obtain ⟨hh, hd⟩ := hnext done d s (by omega) hs
    obtain ⟨t, hrun, ht⟩ := ih (by simp; omega) hd
    exact ⟨t, by simp [completions, exec_running hh, hrun], by simpa using ht⟩

theorem chain_running {s : State} (h : s.halt = false) (i : Instr) (ds : List Byte) :
    chain i ds s = completions ds (effect i s) := by
  simp [chain, exec_running h]

theorem nextAddr_add (a : Addr) (i : Nat) : nextAddr (a + BitVec.ofNat 8 i) = a + BitVec.ofNat 8 (i + 1) := by
  rw [nextAddr, BitVec.ofNat_add, ← BitVec.add_assoc]
  rfl

theorem addr_add_toNat {a : Addr} {i : Nat} (h : a.toNat + i < 256) : (a + BitVec.ofNat 8 i).toNat = a.toNat + i := by
  simp [BitVec.toNat_add]
  omega

/-- From `s` a transfer of `n` bytes at `a` with target `k` is in flight in phase `ph`, its cursor past `i` bytes, FLAG as in
`s`. -/
structure Transfer (ph : Phase) (s : State) (a : Addr) (n : Count) (k : Target) (i : Nat) (t : State) : Prop where
  busy : t.busy = true
  phase : t.phase = ph
  cont : t.cont = k
  bptr : t.bptr = a + BitVec.ofNat 8 i
  brem : t.brem.toNat + i = n.toNat
  flag : t.flag = s.flag
  halt : t.halt = false

/-- The cursor goes one byte on while bytes remain (R117). -/
theorem Transfer.advance {ph : Phase} {s t u : State} {a : Addr} {n : Count} {k : Target} {i : Nat}
    (h : Transfer ph s a n k i t) (hi : i < n.toNat) (hbusy : u.busy = t.busy) (hphase : u.phase = t.phase)
    (hcont : u.cont = t.cont) (hbptr : u.bptr = nextAddr t.bptr) (hbrem : u.brem = lessOne t.brem)
    (hflag : u.flag = t.flag) (hhalt : u.halt = t.halt) : Transfer ph s a n k (i + 1) u where
  busy := hbusy.trans h.busy
  phase := hphase.trans h.phase
  cont := hcont.trans h.cont
  bptr := by rw [hbptr, h.bptr, nextAddr_add]
  brem := by
    have hn := h.brem
    rw [hbrem, lessOne_toNat]
    omega
  flag := hflag.trans h.flag
  halt := hhalt.trans h.halt

/-! ### SEND (R105) -/

/-- The operations that transmit the first `i` bytes of the buffer at `a`, as `s` holds it. -/
def txOps (s : State) (a : Addr) (i : Nat) : List BusOp :=
  (List.range i).map fun j => .tx (memRead s (a + BitVec.ofNat 8 j))

theorem txOps_succ (s : State) (a : Addr) (i : Nat) :
    txOps s a (i + 1) = txOps s a i ++ [.tx (memRead s (a + BitVec.ofNat 8 i))] := by
  simp [txOps, List.range_succ]

/-- A SEND accepted in `s` has issued `i` bytes of its buffer and changed no byte. -/
structure SendRun (s : State) (a : Addr) (n : Count) (k : Target) (i : Nat) (t : State) : Prop
    extends Transfer .sending s a n k i t where
  bh : t.bh = s.bh ++ txOps s a i
  kept : ∀ b, memRead t b = memRead s b

/-- The request hands over the first byte (R104). -/
theorem SendRun.afterRequest {s : State} {a : Addr} {n : Count} (hh : s.halt = false) (hb : s.busy = false)
    (hr : a.toNat + n.toNat ≤ 256) (hn : n ≠ 0#8) (k : Target) : SendRun s a n k 1 (effect (.send a n k) s) := by
  have hpos := count_pos hn
  rw [effect, requestSend_accepted hn hb (sendOk_iff.mpr hr)]
  exact
    { busy := rfl
      phase := rfl
      cont := rfl
      bptr := rfl
      brem := by simp only [respond_brem, issue_brem, lessOne_toNat]; omega
      flag := rfl
      halt := hh
      bh := by simp [txOps]
      kept := fun _ => rfl }

/-- A completion hands over the next byte (R112). -/
theorem SendRun.afterBusDone {s t : State} {a : Addr} {n : Count} {k : Target} {i : Nat} (h : SendRun s a n k i t)
    (hi : i < n.toNat) (d : Byte) : SendRun s a n k (i + 1) (effect (.busDone d) t) := by
  have hmore : 0 < t.brem.toNat := by have := h.brem; omega
  rw [effect, busDone_sending_more h.busy h.phase hmore]
  exact
    { toTransfer := h.toTransfer.advance hi rfl rfl rfl rfl rfl rfl rfl
      bh := by simp [h.bh, h.kept, h.bptr, txOps_succ]
      kept := h.kept }

/-- Settles O25: byte after byte is issued until the cursor is past the last, where BREM = 0 and the next completion ends the
step. -/
theorem sendStepTransmitsItsBuffer : Obligations.SendStepTransmitsItsBuffer := by
  intro s a n k ds hh hb hr hlen
  have hn : n ≠ 0#8 := by rintro rfl; simp at hlen
  have hnext : ∀ done d u, List.length done < ds.length → SendRun s a n k (done.length + 1) u →
      u.halt = false ∧ SendRun s a n k ((done ++ [d]).length + 1) (effect (.busDone d) u) := by
    intro done d u hd hu
    rw [List.length_append, List.length_singleton]
    exact ⟨hu.halt, hu.afterBusDone (by omega) d⟩
  obtain ⟨t, hrun, ht⟩ := completions_progress hnext (ds := ds) (done := []) (by simp) (SendRun.afterRequest hh hb hr hn k)
  rw [List.nil_append, hlen] at ht
  have hlast : t.brem.toNat = 0 := by have := ht.brem; omega
  refine ⟨t, (chain_running hh _ ds).trans hrun, ht.busy, ht.phase, ht.cont, ht.flag, ht.halt, ht.bh, ht.kept, fun d => ?_⟩
  exact exec_busDone_completed ht.halt ht.halt (ht.cont ▸ busDone_sending_last ht.busy ht.phase hlast d)

/-! ### RECV (R109) -/

/-- From `s` to `t` the bytes have been written at `a` and up, and nothing else. -/
structure Stored (s : State) (a : Addr) (bytes : List Byte) (t : State) : Prop where
  read : ∀ i (h : i < bytes.length), memRead t (a + BitVec.ofNat 8 i) = bytes[i]
  kept : ∀ b : Addr, (b.toNat < a.toNat ∨ a.toNat + bytes.length ≤ b.toNat) → memRead t b = memRead s b

theorem Stored.congr {s t u : State} {a : Addr} {bytes : List Byte} (h : Stored s a bytes t)
    (hm : ∀ b, memRead u b = memRead t b) : Stored s a bytes u where
  read i hi := (hm _).trans (h.read i hi)
  kept b hb := (hm b).trans (h.kept b hb)

/-- A received byte is written at BPTR (R113). -/
theorem memRead_storeReceived (d : Byte) (s : State) (b : Addr) :
    memRead (storeReceived d s) b = memRead (memWrite s s.bptr d) b := rfl

/-- No address of a range that RECV accepts is the ROM's (20_memory.md R53). -/
theorem isRom_eq_false_of_recvOk {a : Addr} {n : Count} {i : Nat} (hr : recvOk a n = true) (hi : i < n.toNat) :
    isRom (a + BitVec.ofNat 8 i) = false := by
  rw [recvOk_iff] at hr
  simp only [isRom, addr_add_toNat (show a.toNat + i < 256 by omega), Bool.and_eq_false_imp, decide_eq_true_eq,
    decide_eq_false_iff_not]
  omega

/-- One byte more, at the first address past those written. -/
theorem Stored.snoc {s t : State} {a : Addr} {n : Count} {bytes : List Byte} (h : Stored s a bytes t)
    (hr : recvOk a n = true) (hlen : bytes.length < n.toNat) (d : Byte) :
    Stored s a (bytes ++ [d]) (memWrite t (a + BitVec.ofNat 8 bytes.length) d) := by
  have hend : a.toNat + n.toNat ≤ 256 := (recvOk_iff.mp hr).1
  have hother : ∀ b : Addr, b.toNat ≠ a.toNat + bytes.length →
      memRead (memWrite t (a + BitVec.ofNat 8 bytes.length) d) b = memRead t b := by
    refine fun b hb => memRead_memWrite_other t d ?_
    rintro rfl
    exact hb (addr_add_toNat (by omega))
  constructor
  · intro i hi
    rcases Nat.lt_or_eq_of_le (Nat.le_of_lt_succ (by simpa using hi)) with hi' | rfl
    · rw [hother _ (by rw [addr_add_toNat (by omega)]; omega), h.read i hi', List.getElem_append_left]
    · rw [memRead_memWrite_self t d (isRom_eq_false_of_recvOk hr hlen), List.getElem_concat_length rfl]
  · intro b hb
    rw [List.length_append, List.length_singleton] at hb
    rw [hother b (by omega), h.kept b (by omega)]

/-- A RECV accepted in `s` has stored `bytes`, each received with acknowledge, and armed one receive more, with acknowledge
unless it is the last (R106). -/
structure RecvRun (s : State) (a : Addr) (n : Count) (k : Target) (bytes : List Byte) (t : State) : Prop
    extends Transfer .receiving s a n k bytes.length t where
  bh : t.bh = s.bh ++ List.replicate bytes.length (.rx true) ++ [.rx (ackFor t.brem)]
  stored : Stored s a bytes t

/-- The request arms the first receive (R108). -/
theorem RecvRun.afterRequest {s : State} {a : Addr} {n : Count} (hh : s.halt = false) (hb : s.busy = false)
    (hr : recvOk a n = true) (hn : n ≠ 0#8) (k : Target) : RecvRun s a n k [] (effect (.recv a n k) s) := by
  rw [effect, requestRecv_accepted hn hb hr]
  exact
    { busy := rfl
      phase := rfl
      cont := rfl
      bptr := by simp
      brem := rfl
      flag := rfl
      halt := hh
      bh := by simp
      stored := ⟨by simp, fun _ _ => rfl⟩ }

/-- A completion stores its byte and arms the next receive, while another is to come (R113). -/
theorem RecvRun.afterBusDone {s t : State} {a : Addr} {n : Count} {k : Target} {bytes : List Byte} (h : RecvRun s a n k bytes t)
    (hr : recvOk a n = true) (hlen : bytes.length + 1 < n.toNat) (d : Byte) :
    RecvRun s a n k (bytes ++ [d]) (effect (.busDone d) t) := by
  have hleft := h.brem
  have hmore : 0 < (lessOne t.brem).toNat := by rw [lessOne_toNat]; omega
  have hack : ackFor t.brem = true := by rw [ackFor, decide_eq_true_eq]; omega
  have hstored := h.stored.snoc hr (by omega) d
  rw [← h.bptr] at hstored
  rw [effect, busDone_receiving_more h.busy h.phase hmore]
  exact
    { toTransfer := by
        rw [List.length_append, List.length_singleton]
        apply h.toTransfer.advance (by omega) <;> simp
      bh := by simp [h.bh, hack, List.replicate_succ']
      stored := hstored.congr fun b => by simp [memRead_storeReceived, memRead_memWrite] }

/-- Settles O26: byte after byte is stored and acknowledged until one is to come, which the last completion stores before it
dispatches. -/
theorem recvStepStoresItsBytes : Obligations.RecvStepStoresItsBytes := by
  intro s a n k ds last hh hb hend hrom hlen
  have hr : recvOk a n = true := recvOk_iff.mpr ⟨hend, hrom⟩
  have hn : n ≠ 0#8 := by rintro rfl; simp at hlen
  have hnext : ∀ done d u, List.length done < ds.length → RecvRun s a n k done u →
      u.halt = false ∧ RecvRun s a n k (done ++ [d]) (effect (.busDone d) u) :=
    fun done d u hd hu => ⟨hu.halt, hu.afterBusDone hr (by omega) d⟩
  obtain ⟨t, hrun, ht⟩ := completions_progress hnext (ds := ds) (done := []) (by simp) (RecvRun.afterRequest hh hb hr hn k)
  rw [List.nil_append] at ht
  have hone : t.brem.toNat = 1 := by have := ht.brem; omega
  have hlast : (lessOne t.brem).toNat = 0 := by rw [lessOne_toNat, hone]
  have hack : ackFor t.brem = false := by simp [ackFor, hone]
  have hstored := ht.stored.snoc hr (by omega) last
  rw [← ht.bptr] at hstored
  refine ⟨t, memWrite t t.bptr last, (chain_running hh _ ds).trans hrun, ht.busy, ht.phase, ht.cont, ht.halt,
    by rw [ht.bh, hack], ?_, rfl, ht.flag, fun i hi => ?_, ?_, fun b hb' => ?_⟩
  · exact exec_busDone_completed ht.halt ht.halt (ht.cont ▸ busDone_receiving_last ht.busy ht.phase hlast last)
  · rw [hstored.read i (by simp; omega), List.getElem_append_left]
  · rw [hstored.read ds.length (by simp), List.getElem_concat_length rfl]
  · exact hstored.kept b (by rw [List.length_append, List.length_singleton, hlen]; exact hb')

end Sys2Proof.Machine

/-! PROOFS. 41_continuations.md: the continuation targets, VALIDATE, and the two chains. -/

namespace Sys2Proof.Machine

/-! ### The requests that start a chain (R142, R143) -/

/-- Settles O18: both are START of a chain's first target. -/
theorem chainsBeginWithAStart : Obligations.ChainsBeginWithAStart := by
  intro s hh
  obtain ⟨hread, hread'⟩ := startRequestsAStartCondition s .rdAddr hh
  obtain ⟨hwrite, hwrite'⟩ := startRequestsAStartCondition s .wrAddr hh
  exact ⟨fun hb => ⟨hread hb, hwrite hb⟩, fun hb => ⟨hread' hb, hwrite' hb⟩⟩

/-! ### The targets that make one request (R141, R144 to R147, R149 to R151) -/

/-- Settles O27: NONE's action is to do nothing. -/
theorem noneTargetDoesNothing : Obligations.NoneTargetDoesNothing :=
  fun _ hh => exec_running hh .kNone

/-- In the memory's form CMDW's first byte is DEV_WADDR (20_memory.md R50). -/
theorem memRead_devWaddr {s : State} (h : Memory.wf s = true) : memRead s 0x08#8 = s.cfg.devWaddr :=
  memRead_rom h rfl

/-- In the memory's form CMDW's second byte is REG_INDEX (20_memory.md R50). -/
theorem memRead_regIndex {s : State} (h : Memory.wf s = true) : memRead s 0x09#8 = 0x00#8 :=
  memRead_rom h rfl

/-- In the memory's form CMDR's byte is DEV_RADDR (20_memory.md R50). -/
theorem memRead_devRaddr {s : State} (h : Memory.wf s = true) : memRead s 0x0A#8 = s.cfg.devRaddr :=
  memRead_rom h rfl

/-- Settles O28: both send CMDW. -/
theorem addressTargetsSendTheWriteAddress : Obligations.AddressTargetsSendTheWriteAddress := by
  intro s hh hb hm
  rw [exec_running hh, exec_running hh, effect, effect, actRdAddr_idle hb, actWrAddr_idle hb, memRead_devWaddr hm]
  exact ⟨rfl, rfl⟩

/-- Settles O29: a START in the idle engine is accepted. -/
theorem restartTargetStartsAgain : Obligations.RestartTargetStartsAgain := by
  intro s hh hb
  rw [exec_running hh, effect, actRdRestart_idle hb]
  rfl

/-- Settles O30: it sends CMDR. -/
theorem devreadTargetSendsTheReadAddress : Obligations.DevreadTargetSendsTheReadAddress := by
  intro s hh hb hm
  rw [exec_running hh, effect, actRdDevread_idle hb, memRead_devRaddr hm]
  rfl

/-- Settles O31: the register block's range is one that RECV accepts. -/
theorem recvTargetArmsTheRegisterBlock : Obligations.RecvTargetArmsTheRegisterBlock := by
  intro s hh hb
  rw [exec_running hh, effect, actRdRecv_idle hb]
  rfl

/-- Settles O34: the register block's first byte goes with the request. -/
theorem dataTargetSendsTheRegisterBlock : Obligations.DataTargetSendsTheRegisterBlock := by
  intro s hh hb
  rw [exec_running hh, effect, actWrData_idle hb]
  rfl

/-- Settles O35: a STOP in the idle engine is accepted. -/
theorem writeFinishTargetStops : Obligations.WriteFinishTargetStops := by
  intro s hh hb
  rw [exec_running hh, effect, actWrFinish_idle hb]
  rfl

/-! ### RD_FINISH and VALIDATE (R148, R152, R158) -/

/-- VALIDATE's corrections leave the block that R152 asks for. -/
theorem memRead_repaired_eq (s : State) (a : Addr) :
    memRead (repairControl (repairSeconds s)) a = repaired s.cfg (memRead s) a := by
  rw [memRead_repaired, secondsInvalid, repaired]
  by_cases h : a.toNat < 7 <;> simp [h]

/-- A correction is needed where VALIDATE's own two tests say so. -/
theorem correctionNeeded_eq (s : State) :
    correctionNeeded s.cfg (memRead s) = (secondsInvalid s || controlWrong s) := rfl

/-- Settles O32: VALIDATE runs in the idle engine, after the stop condition. -/
theorem finishTargetStopsAndValidates : Obligations.FinishTargetStopsAndValidates := by
  intro s hh hb
  have hneeded := correctionNeeded_eq (issue .stop s)
  have hrepaired := memRead_repaired_eq (issue .stop s)
  rw [repaired_eq] at hrepaired
  rw [exec_running hh, effect, actRdFinish_idle hb, validate_idle (by exact hb), ← hneeded]
  refine ⟨(repairControl (repairSeconds (issue .stop s))).mem, hrepaired, fun h => ?_, fun h => ?_⟩
  · rw [if_neg (by exact ne_true_of_eq_false h)]
    rfl
  · have hbh : s.bh ++ [.stop, .start] = s.bh ++ [.stop] ++ [.start] := by simp
    rw [if_pos (by exact h), hbh]
    rfl

/-- RD_FINISH from the idle engine `s` to `t`: a stop condition, the repaired block, FLAG, and the start of a write-back exactly
where a correction applied. -/
structure Finished (s t : State) : Prop where
  read : ∀ a, memRead t a = repaired s.cfg (memRead s) a
  bh : t.bh = s.bh ++ .stop :: if correctionNeeded s.cfg (memRead s) then [.start] else []
  flag : t.flag = true
  halt : t.halt = false
  busy : t.busy = correctionNeeded s.cfg (memRead s)
  writeBack : t.busy = true → t.phase = .command ∧ t.cont = .wrAddr

/-- So it is, whether or not the block needs a correction. -/
theorem Finished.of_exec {s t : State} (hb : s.busy = false) (h : exec .kRdFinish s = .next t) : Finished s t := by
  obtain ⟨hh, -⟩ := exec_next.mp h
  obtain ⟨mem, hmem, hvalid, hcorrected⟩ := finishTargetStopsAndValidates s hh hb
  cases hc : correctionNeeded s.cfg (memRead s) with
  | false =>
    cases h.symm.trans (hvalid hc)
    exact ⟨hmem, by simp [hc], rfl, hh, hb.trans hc.symm, fun hbusy => by simp [hb] at hbusy⟩
  | true =>
    cases h.symm.trans (hcorrected hc)
    exact ⟨hmem, by simp [hc], rfl, hh, hc.symm, fun _ => ⟨rfl, rfl⟩⟩

theorem correctionNeeded_iff {c : Config} {found : Addr → Byte} :
    correctionNeeded c found = true ↔ invalidBit (found 0x00#8) = true ∨ found 0x07#8 ≠ c.ctrlValue := by
  simp [correctionNeeded]

/-- A block that needs no correction stays as found. -/
theorem repaired_of_not_needed {c : Config} {found : Addr → Byte} (h : correctionNeeded c found = false) (a : Addr) :
    repaired c found a = found a := by
  simp only [correctionNeeded, Bool.or_eq_false_iff, bne_eq_false_iff_eq] at h
  obtain ⟨hsec, hctrl⟩ := h
  unfold repaired
  split
  · rename_i h7; rw [h7, hctrl]
  · simp [hsec]

/-- The time bytes are replaced together, by the seconds byte's bit. -/
theorem repaired_time (c : Config) (found : Addr → Byte) {i : Nat} (h : i < 7) :
    repaired c found (BitVec.ofNat 8 i) =
      if invalidBit (found 0x00#8) then c.defaultTime[i] else found (BitVec.ofNat 8 i) := by
  have hi : (BitVec.ofNat 8 i).toNat = i := by simp; omega
  have h7 : BitVec.ofNat 8 i ≠ 0x07#8 := fun he => by rw [he] at hi; simp at hi; omega
  simp [repaired, h7, hi, h]

/-- No byte past the control byte is corrected. -/
theorem repaired_outside (c : Config) (found : Addr → Byte) {a : Addr} (h : 8 ≤ a.toNat) :
    repaired c found a = found a := by
  have h7 : a ≠ 0x07#8 := by rintro rfl; simp at h
  rw [repaired, if_neg h7, dif_neg (by omega)]

/-- Settles O33: what the repaired block holds, address by address. -/
theorem validateLeavesAValidBlock : Obligations.ValidateLeavesAValidBlock := by
  intro s t hb h
  have hfin := Finished.of_exec hb h
  refine ⟨fun hsec hctrl => ?_, fun hcor => ?_, fun hsec i hi => ?_, fun hsec i hi => ?_, fun a ha => ?_⟩
  · have hnot : correctionNeeded s.cfg (memRead s) = false := by simp [correctionNeeded, hsec, hctrl]
    exact ⟨fun a => (hfin.read a).trans (repaired_of_not_needed hnot a), hfin.busy.trans hnot⟩
  · have hbusy : t.busy = true := hfin.busy.trans (correctionNeeded_iff.mpr hcor)
    exact ⟨hfin.read 0x07#8, hbusy, (hfin.writeBack hbusy).2⟩
  · rw [hfin.read, repaired_time _ _ hi, if_pos hsec]
  · rw [hfin.read, repaired_time _ _ hi, if_neg (ne_true_of_eq_false hsec)]
  · rw [hfin.read, repaired_outside _ _ ha]

/-! ### Completions in a busy engine -/

/-- From `s` to `t` the completions of `ds` are delivered with nothing between them, each to a busy engine (R156). -/
inductive BusyRun : List Byte → State → State → Prop where
  | nil (s : State) : BusyRun [] s s
  | cons {s t : State} {d : Byte} {ds : List Byte} (halt : s.halt = false) (busy : s.busy = true)
      (rest : BusyRun ds (effect (.busDone d) s) t) : BusyRun (d :: ds) s t

theorem BusyRun.trans {ds es : List Byte} {s t u : State} (h : BusyRun ds s t) (h' : BusyRun es t u) :
    BusyRun (ds ++ es) s u := by
  induction h with
  | nil => exact h'
  | cons hh hb _ ih => exact .cons hh hb (ih h')

/-- A busy run is what its completions do. -/
theorem BusyRun.completions_eq {ds : List Byte} {s t : State} (h : BusyRun ds s t) : completions ds s = .next t := by
  induction h with
  | nil => rfl
  | cons hh _ _ ih => simp [completions, exec_running hh, ih]

/-- The engine is busy at every proper prefix (R156). -/
theorem BusyRun.busy_before {ds : List Byte} {s t : State} (h : BusyRun ds s t) {n : Nat} (hn : n < ds.length) :
    ∃ u, completions (ds.take n) s = .next u ∧ u.busy = true := by
  induction h generalizing n with
  | nil => simp at hn
  | cons hh hb _ ih =>
    cases n with
    | zero => exact ⟨_, rfl, hb⟩
    | succ n =>
      obtain ⟨u, hu, hbusy⟩ := ih (Nat.lt_of_succ_lt_succ hn)
      exact ⟨u, by simp [completions, exec_running hh, hu], hbusy⟩

theorem BusyRun.cfg {ds : List Byte} {s t : State} (h : BusyRun ds s t) : t.cfg = s.cfg := by
  induction h with
  | nil => rfl
  | cons hh _ _ ih => exact ih.trans (noInstructionWritesTheConfiguration _ _ _ (exec_running hh _)).1

/-! ### An engine step from its request to its dispatch -/

/-- The engine steps that `s` began have issued `ops` and ended in `v`, the cleared engine in which the last one's target is
dispatched (40_bus_engine.md R115). -/
structure Cleared (s : State) (ops : List BusOp) (v : State) : Prop where
  busy : v.busy = false
  phase : v.phase = .idle
  cont : v.cont = .none
  outst : v.outst = none
  bh : v.bh = s.bh ++ ops
  flag : v.flag = s.flag
  halt : v.halt = false

/-- The completion that ends a step in `t` leaves the cleared engine. -/
theorem Cleared.of_delivered {s t : State} {ops : List BusOp} (hbh : t.bh = s.bh ++ ops) (hflag : t.flag = s.flag)
    (hhalt : t.halt = false) : Cleared s ops (engineIdle (delivered t)) :=
  ⟨rfl, rfl, rfl, rfl, hbh, hflag, hhalt⟩

/-- One engine step after another. -/
theorem Cleared.trans {s v w : State} {ops ops' : List BusOp} (h : Cleared s ops v) (h' : Cleared v ops' w) :
    Cleared s (ops ++ ops') w :=
  { h' with
    bh := by rw [h'.bh, h.bh, List.append_assoc]
    flag := h'.flag.trans h.flag }

/-- The completion that ends a step, in the state `u`, dispatches the step's target in the cleared engine. -/
theorem BusyRun.last {t u : State} {d : Byte} {k : Target} (hh : t.halt = false) (hb : t.busy = true)
    (h : busDone d t = dispatch k (engineIdle (delivered u))) :
    BusyRun [d] t (effect k.instr (engineIdle (delivered u))) :=
  .cons hh hb (by rw [effect, h, effect_target]; exact .nil _)

/-- START accepted in `s`: its start condition is in flight (40_bus_engine.md R100). -/
structure StartRun (s : State) (k : Target) (t : State) : Prop where
  busy : t.busy = true
  phase : t.phase = .command
  cont : t.cont = k
  bh : t.bh = s.bh ++ [.start]
  flag : t.flag = s.flag
  halt : t.halt = false
  kept : memRead t = memRead s

/-- The request issues the start condition, whatever becomes of its response (R100, R153). -/
theorem StartRun.afterRequest {s : State} (hh : s.halt = false) (hb : s.busy = false) (k : Target) (r : Option Response) :
    StartRun s k (respond ((requestStart k s).1, r)) := by
  rw [requestStart_idle hb]
  exact ⟨rfl, rfl, rfl, rfl, rfl, hh, rfl⟩

/-- The completion of the start condition dispatches the target (40_bus_engine.md R114). -/
theorem StartRun.ends {s t : State} {k : Target} (h : StartRun s k t) (d : Byte) :
    ∃ v, BusyRun [d] t (effect k.instr v) ∧ Cleared s [.start] v ∧ memRead v = memRead s :=
  ⟨_, .last h.halt h.busy (h.cont ▸ busDone_command h.busy (.inl h.phase) d), .of_delivered h.bh h.flag h.halt, h.kept⟩

/-- A request's answer with its response discarded is the same transfer (R153). -/
theorem Transfer.discard {ph : Phase} {s : State} {a : Addr} {n : Count} {k : Target} {i : Nat} {r : Answer}
    (h : Transfer ph s a n k i (respond r)) : Transfer ph s a n k i (silent r.1) :=
  ⟨h.busy, h.phase, h.cont, h.bptr, h.brem, h.flag, h.halt⟩

/-- A target's SEND, accepted in `s` (R104, R153). -/
theorem SendRun.afterDispatch {s : State} {a : Addr} {n : Count} (hh : s.halt = false) (hb : s.busy = false)
    (hr : a.toNat + n.toNat ≤ 256) (hn : n ≠ 0#8) (k : Target) : SendRun s a n k 1 (silent (requestSend a n k s).1) :=
  have h := SendRun.afterRequest hh hb hr hn k
  ⟨h.toTransfer.discard, h.bh, h.kept⟩

/-- A SEND's remaining completions issue the remaining bytes of its buffer; the last of them dispatches its target. -/
theorem SendRun.ends {s t : State} {a : Addr} {n : Count} {k : Target} {i : Nat} {ds : List Byte} (h : SendRun s a n k i t)
    (hlen : ds.length + i = n.toNat + 1) :
    ∃ v, BusyRun ds t (effect k.instr v) ∧ Cleared s (txOps s a n.toNat) v ∧ memRead v = memRead s := by
  induction ds generalizing i t with
  | nil =>
    have hleft := h.brem
    rw [List.length_nil] at hlen
    omega
  | cons d ds ih =>
    rw [List.length_cons] at hlen
    by_cases hi : i < n.toNat
    · obtain ⟨v, hrun, hv⟩ := ih (h.afterBusDone hi d) (by omega)
      exact ⟨v, .cons h.halt h.busy hrun, hv⟩
    · have hin : i = n.toNat := by have := h.brem; omega
      obtain rfl : ds = [] := List.eq_nil_of_length_eq_zero (by omega)
      subst hin
      have hlast : t.brem.toNat = 0 := by have := h.brem; omega
      exact ⟨_, .last h.halt h.busy (h.cont ▸ busDone_sending_last h.busy h.phase hlast d),
        .of_delivered h.bh h.flag h.halt, funext h.kept⟩

/-- A target's RECV, accepted in `s` (R108, R153). -/
theorem RecvRun.afterDispatch {s : State} {a : Addr} {n : Count} (hh : s.halt = false) (hb : s.busy = false)
    (hr : recvOk a n = true) (hn : n ≠ 0#8) (k : Target) : RecvRun s a n k [] (silent (requestRecv a n k s).1) :=
  have h := RecvRun.afterRequest hh hb hr hn k
  ⟨h.toTransfer.discard, h.bh, h.stored.congr fun _ => rfl⟩

/-- A RECV's remaining completions store the remaining bytes; the last of them dispatches its target. -/
theorem RecvRun.ends {s t : State} {a : Addr} {n : Count} {k : Target} {done ds : List Byte} {last : Byte}
    (h : RecvRun s a n k done t) (hr : recvOk a n = true) (hlen : done.length + ds.length + 1 = n.toNat) :
    ∃ v, BusyRun (ds ++ [last]) t (effect k.instr v) ∧
      Cleared s (List.replicate (done ++ ds).length (.rx true) ++ [.rx false]) v ∧ Stored s a (done ++ ds ++ [last]) v := by
  induction ds generalizing done t with
  | nil =>
    have hone : t.brem.toNat = 1 := by have := h.brem; rw [List.length_nil] at hlen; omega
    have hack : ackFor t.brem = false := by simp [ackFor, hone]
    have hbh := h.bh
    rw [hack, List.append_assoc] at hbh
    have hstored := h.stored.snoc hr (by have := h.brem; omega) last
    rw [← h.bptr] at hstored
    rw [List.append_nil]
    exact ⟨_, .last h.halt h.busy (h.cont ▸ busDone_receiving_last h.busy h.phase (by simp [lessOne_toNat, hone]) last),
      .of_delivered (t := memWrite t t.bptr last) hbh h.flag h.halt, hstored.congr fun _ => rfl⟩
  | cons d ds ih =>
    rw [List.length_cons] at hlen
    obtain ⟨v, hrun, hv⟩ := ih (h.afterBusDone hr (by omega) d) (by simp; omega)
    rw [List.append_assoc, List.singleton_append] at hv
    exact ⟨v, .cons h.halt h.busy hrun, hv⟩

/-! ### The chains (R154 to R157) -/

/-- A request and a busy run after it: the chain as the statements see it. -/
theorem chain_of_busyRun {i : Instr} {s t : State} {ds : List Byte} (hh : s.halt = false)
    (h : BusyRun ds (effect i s) t) :
    chain i ds s = .next t ∧ ∀ n, n < ds.length → ∃ u, chain i (ds.take n) s = .next u ∧ u.busy = true := by
  simp only [chain_running hh]
  exact ⟨h.completions_eq, fun _ hn => h.busy_before hn⟩

/-- A buffer's operations depend on the bytes read alone. -/
theorem txOps_congr {s v : State} (h : memRead v = memRead s) (a : Addr) (i : Nat) : txOps v a i = txOps s a i := by
  simp [txOps, h]

theorem txOps_cmdw {s : State} (h : Memory.wf s = true) : txOps s cmdwBase 2 = [.tx s.cfg.devWaddr, .tx 0x00#8] := by
  simp [txOps, List.range_succ, cmdwBase, memRead_devWaddr h, memRead_regIndex h]

theorem txOps_cmdr {s : State} (h : Memory.wf s = true) : txOps s cmdrBase 1 = [.tx s.cfg.devRaddr] := by
  simp [txOps, cmdrBase, memRead_devRaddr h]

/-- How both chains begin: START of a target `k` that sends CMDW with target `k'` (R142 to R144, R149). -/
theorem addressing_ends {s : State} {k k' : Target} (hh : s.halt = false) (hb : s.busy = false) (hm : Memory.wf s = true)
    (hk : ∀ u, effect k.instr u = silent (requestSend cmdwBase 2#8 k' u).1) (d1 d2 d3 : Byte) :
    ∃ v, BusyRun [d1, d2, d3] (respond (requestStart k s)) (effect k'.instr v) ∧
      Cleared s [.start, .tx s.cfg.devWaddr, .tx 0x00#8] v ∧ memRead v = memRead s := by
  obtain ⟨u, hstart, hu, hum⟩ := (StartRun.afterRequest hh hb k (requestStart k s).2).ends d1
  rw [hk] at hstart
  have hsend : SendRun u cmdwBase 2#8 k' 1 (silent (requestSend cmdwBase 2#8 k' u).1) :=
    .afterDispatch hu.halt hu.busy (by decide) (by decide) k'
  obtain ⟨v, hrun, hv, hvm⟩ := hsend.ends (ds := [d2, d3]) rfl
  have hops : txOps u cmdwBase (2#8).toNat = [.tx s.cfg.devWaddr, .tx 0x00#8] :=
    (txOps_congr hum cmdwBase 2).trans (txOps_cmdw hm)
  rw [hops] at hv
  exact ⟨v, hstart.trans hrun, hu.trans hv, hvm.trans hum⟩

/-- Settles O37: CMDW is sent, then the register block, and WR_FINISH stops. -/
theorem writeChainIssuesItsOperations : Obligations.WriteChainIssuesItsOperations := by
  intro s ds hlen hh hb hm
  obtain ⟨d1, d2, d3, es, rfl⟩ : ∃ d1 d2 d3 es, ds = d1 :: d2 :: d3 :: es := by
    match ds, hlen with
    | d1 :: d2 :: d3 :: es, _ => exact ⟨d1, d2, d3, es, rfl⟩
  obtain ⟨u, haddr, hu, hum⟩ := addressing_ends (k := .wrAddr) (k' := .wrData) hh hb hm (fun _ => rfl) d1 d2 d3
  have hdata : SendRun u regblkBase 8#8 .wrFinish 1 (effect .kWrData u) :=
    .afterDispatch hu.halt hu.busy (by decide) (by decide) .wrFinish
  obtain ⟨v, hsend, hv, hvm⟩ := hdata.ends (ds := es) (by simpa using hlen)
  have hend := hu.trans hv
  have hstop : effect .kWrFinish v = silent (issue .stop v) := by rw [effect, actWrFinish_idle hv.busy]
  obtain ⟨hrun, hbefore⟩ := chain_of_busyRun (i := .wrrtc) hh (haddr.trans hsend)
  refine ⟨silent (issue .stop v), hstop ▸ hrun, ?_, hend.busy, hend.phase, hend.cont, hend.outst, hend.flag, hend.halt,
    congrFun (hvm.trans hum), hlen ▸ hbefore⟩
  have hblock : txOps u regblkBase (8#8).toNat = (List.range 8).map fun i => .tx (memRead s (BitVec.ofNat 8 i)) := by
    rw [txOps_congr hum]
    simp [txOps, regblkBase]
  rw [silent_bh, issue_bh, hend.bh, hblock]
  simp

/-- The read chain up to RD_FINISH: CMDW is sent, the bus restarted, CMDR sent, the register block received (R154). -/
theorem reading_ends {s : State} (hh : s.halt = false) (hb : s.busy = false) (hm : Memory.wf s = true)
    (d1 d2 d3 d4 d5 last : Byte) {ds : List Byte} (hlen : ds.length = 7) :
    ∃ v, BusyRun ([d1, d2, d3, d4, d5] ++ (ds ++ [last])) (effect .rdrtc s) (effect .kRdFinish v) ∧
      Cleared s ([.start, .tx s.cfg.devWaddr, .tx 0x00#8, .start, .tx s.cfg.devRaddr] ++
        (List.replicate 7 (.rx true) ++ [.rx false])) v ∧
      Stored s regblkBase (ds ++ [last]) v := by
  obtain ⟨u, haddr, hu, hum⟩ := addressing_ends (k := .rdAddr) (k' := .rdRestart) hh hb hm (fun _ => rfl) d1 d2 d3
  obtain ⟨v, hstart, hv, hvm⟩ := (StartRun.afterRequest hu.halt hu.busy .rdDevread none).ends d4
  have hdevread : SendRun v cmdrBase 1#8 .rdRecv 1 (effect .kRdDevread v) :=
    .afterDispatch hv.halt hv.busy (by decide) (by decide) .rdRecv
  obtain ⟨w, hsend, hw, hwm⟩ := hdevread.ends (ds := [d5]) rfl
  have hrecv : RecvRun w regblkBase 8#8 .rdFinish [] (effect .kRdRecv w) :=
    .afterDispatch hw.halt hw.busy (by decide) (by decide) .rdFinish
  obtain ⟨x, hreceive, hx, hstored⟩ := hrecv.ends (ds := ds) (last := last) (by decide) (by simp [hlen])
  have hvs : memRead v = memRead s := hvm.trans hum
  have hcmdr : txOps v cmdrBase (1#8).toNat = [.tx s.cfg.devRaddr] :=
    (txOps_congr hvs cmdrBase 1).trans (txOps_cmdr hm)
  rw [hcmdr] at hw
  rw [List.nil_append, hlen] at hx
  exact ⟨x, ((haddr.trans hstart).trans hsend).trans hreceive, ((hu.trans hv).trans hw).trans hx, hstored.read,
    fun b hb => (hstored.kept b hb).trans (congrFun (hwm.trans hvs) b)⟩

/-- Settles O36: the received block is what RD_FINISH validates. -/
theorem readChainIssuesItsOperations : Obligations.ReadChainIssuesItsOperations := by
  intro s d1 d2 d3 d4 d5 r0 r1 r2 r3 r4 r5 r6 r7 hh hb hm
  obtain ⟨v, hreads, hv, hstored⟩ :=
    reading_ends hh hb hm d1 d2 d3 d4 d5 r7 (ds := [r0, r1, r2, r3, r4, r5, r6]) rfl
  have hfin : Finished v (effect .kRdFinish v) := .of_exec hv.busy (exec_running hv.halt _)
  have hcfg : v.cfg = s.cfg := calc
    v.cfg = (effect .kRdFinish v).cfg := (dispatch_cfg .rdFinish v).symm
    _ = (effect .rdrtc s).cfg := hreads.cfg
    _ = s.cfg := requestStart_cfg .rdAddr s
  have hbyte : ∀ i (h : i < 8), memRead v (BitVec.ofNat 8 i) = [r0, r1, r2, r3, r4, r5, r6, r7][i] :=
    fun i h => by simpa [regblkBase] using hstored.read i h
  have hseconds : memRead v 0x00#8 = r0 := hbyte 0 (by simp)
  have hcontrol : memRead v 0x07#8 = r7 := hbyte 7 (by simp)
  have hneeded : correctionNeeded v.cfg (memRead v) = true ↔ (invalidBit r0 = true ∨ r7 ≠ s.cfg.ctrlValue) := by
    rw [correctionNeeded_iff, hseconds, hcontrol, hcfg]
  obtain ⟨hrun, hbefore⟩ := chain_of_busyRun (i := .rdrtc) hh hreads
  refine ⟨effect .kRdFinish v, hrun, ?_, hfin.flag, hfin.halt, fun i hi => ?_, fun a ha => ?_, ?_, hfin.writeBack, hbefore⟩
  · simp only [hfin.bh, hv.bh, hneeded]
    simp [List.replicate_succ]
  · rw [hfin.read]
    by_cases h7 : i = 7
    · subst h7
      exact congrArg Config.ctrlValue hcfg
    · have hi7 : i < 7 := by omega
      have hdefault : s.cfg.defaultTime.toList.getD i 0#8 = s.cfg.defaultTime[i] := by simp [List.getD, hi7]
      rw [if_neg h7, hdefault, repaired_time _ _ hi7, hseconds, hbyte i hi, hcfg]
  · rw [hfin.read, repaired_outside _ _ ha, hstored.kept a (.inr ha)]
  · rw [hfin.busy, hneeded]

end Sys2Proof.Machine

/-! PROOFS. 42_handoff.md: the flag handoff, the host's access to the buffer memory, and the trigger. -/

namespace Sys2Proof.Machine

/-! ### The flag and the buffer memory (R180, R183, R184) -/

/-- Settles O38: FLGCLR's rule writes FLAG and the response alone. -/
theorem flgclrClearsTheFlag : Obligations.FlgclrClearsTheFlag :=
  fun _ hh => exec_running hh .flgclr

/-- Settles O40: MEMRD's rule checks no address. -/
theorem memrdReadsTheByte : Obligations.MemrdReadsTheByte :=
  fun _ a hh => exec_running hh (.memrd a)

/-- A host write to the register block or the ROM faults; `requestMemwr_ram` is the other branch. -/
theorem requestMemwr_protected {a : Addr} (h : a.toNat ≤ 0x0A) (v : Byte) (s : State) :
    requestMemwr a v s = (raiseFault .protectedWrite s, none) := by
  simp [requestMemwr, hostWritable, Nat.not_lt_of_le h]

/-- RAM holds no ROM address, so a byte written there reads back, and no other changes (20_memory.md R51). -/
theorem memRead_memWrite_ram {a : Addr} (h : 0x0B ≤ a.toNat) (v : Byte) (s : State) (b : Addr) :
    memRead (memWrite s a v) b = if b = a then v else memRead s b := by
  simp [memRead_memWrite, isRom_eq_false_of_ram h]

/-- Settles O41: the two branches of a host write, on either side of the first RAM address. -/
theorem memwrWritesHostMemory : Obligations.MemwrWritesHostMemory := by
  intro s a v hh
  rw [exec_running hh, effect]
  constructor
  · intro hprotected
    rw [requestMemwr_protected hprotected]
    rfl
  · intro hram
    refine ⟨(memWrite s a v).mem, ?_, fun b => memRead_memWrite_ram hram v s b⟩
    rw [requestMemwr_ram hram]
    rfl

/-! ### The trigger (R190) -/

/-- The trigger handler is RDRTC's request, and FLAG rises with it where TRIGGER_SETS_FLAG. -/
theorem trigger_eq (s : State) :
    trigger s = { (requestStart .rdAddr s).1 with flag := s.flag || s.cfg.triggerSetsFlag } := by
  unfold trigger
  cases hc : s.cfg.triggerSetsFlag with
  | true =>
    rw [Bool.or_true]
    rfl
  | false =>
    rw [Bool.or_false, ← requestStart_flag .rdAddr s]
    rfl

/-- Settles O42: the request the trigger makes begins a step in the idle engine and is rejected in the busy one. -/
theorem triggerRequestsARead : Obligations.TriggerRequestsARead := by
  intro s hh
  rw [exec_running hh, effect, trigger_eq]
  constructor
  · intro hb
    rw [requestStart_idle hb]
    rfl
  · intro hb
    rw [requestStart_busy hb]
    rfl

end Sys2Proof.Machine

/-! PROOFS. 60_exceptions.md: where a fault is raised, the halted state, a hung engine, and words of an agent that does not own
them. -/

namespace Sys2Proof.Machine

/-! ### Faults and the halted state (R214, R215, R218) -/

/-- Settles O44: every meaning runs while HALT = 0 and takes exactly the fault its row of the table names. -/
theorem faultsAreRaisedExactlyWhereStated : Obligations.FaultsAreRaisedExactlyWhereStated := by
  refine ⟨⟨rfl, rfl, rfl, rfl⟩, fun i s hh => ⟨effect i s, exec_running hh i, fun hnone => ?_, fun hc => ?_⟩⟩
  · obtain ⟨hhalt, hcause⟩ := (effect_takesFault i s).kept hnone
    exact ⟨hhalt.trans hh, hcause⟩
  · exact (effect_takesFault i s).taken hc

/-- A halted block is stuck whatever is presented, but for a reset (R215). -/
theorem nextOf_halted {s : State} (hh : s.halt = true) (hr : ∀ src rest, s.inputs ≠ .reset src :: rest) :
    nextOf s = .stuck (.halted s.hcause) := by
  have hstuck : ∀ n, whileEnabled s n = .stuck (.halted s.hcause) := fun _ => if_pos hh
  cases hin : s.inputs with
  | nil => exact (nextOf_nil hin).trans (hstuck _)
  | cons inp rest =>
    cases inp with
    | command ag w => exact (nextOf_commandFirst hin).trans (hstuck _)
    | event ag w => exact (nextOf_eventFirst hin).trans (hstuck _)
    | reset src => exact absurd hin (hr src rest)

/-- Settles O45: no meaning runs and nothing is taken while HALT = 1, but for a reset, which clears HALT and HCAUSE. -/
theorem onlyAResetLeavesTheHaltedState : Obligations.OnlyAResetLeavesTheHaltedState := by
  intro s hh
  refine ⟨exec_halted hh, fun hr => ?_, fun src rest hin => ?_⟩
  · rw [step, nextOf_halted hh hr]
  · exact ⟨applyReset { s with inputs := rest }, by rw [step, nextOf_resetFirst hin], rfl, rfl⟩

/-! ### A hang (R224) -/

/-- Settles O54: a wait leaves the engine alone, and a busy engine answers no instruction but BUS_DONE, which runs only where
its word is presented. -/
theorem hungEngineStaysBusy : Obligations.HungEngineStaysBusy := by
  intro s t hb h hreset hdone
  rcases step_next h with ⟨-, rfl⟩ | ⟨u, hu, -⟩ | ⟨i, u, hu, ht⟩
  · exact ⟨hb, rfl, rfl, rfl⟩
  · obtain ⟨src, rest, hin, -⟩ := nextOf_reset hu
    exact absurd hin (hreset src rest)
  · have hi : ∀ d, i ≠ .busDone d := by
      rintro d rfl
      obtain ⟨w, rest, hin, hd⟩ := nextOf_run_busDone hu
      exact hdone _ w rest d hin hd
    obtain ⟨-, _, rest, -, rfl, -⟩ := nextOf_run hu
    obtain ⟨hbusy, hphase, hcont, -, -, -, hbh⟩ :=
      busyEngineAnswersToBusDoneAlone i { s with inputs := rest } t hb hi ht
    exact ⟨hbusy, hphase, hcont, hbh⟩

/-! ### Words of an agent that does not own them (R212) -/

theorem step_of_nextOf_refuse {s : State} {r : Refusal} (h : nextOf s = .refuse r) : step s = .refused r := by
  simp [step, h]

theorem takeWord_notOwner {ag : Agent} {i : Instr} (h : presenter i ≠ some ag) (u : State) :
    takeWord ag u (.instr i) = .refuse .contextViolation := by
  simp [takeWord, mayPresent, h]

/-- An event word is refused whether its agent has no right to the port or no right to the word. -/
theorem onEvent_notOwner {ag : Agent} {w : EventWord} {i : Instr} (hd : decodeEvent w = .instr i)
    (hp : presenter i ≠ some ag) (u : State) : onEvent ag w u = .refuse .contextViolation := by
  unfold onEvent
  split
  · rw [hd]
    exact takeWord_notOwner hp u
  · rfl

/-- Settles O11: the command port is FG's, and BUS_DONE is BC's and TRIG is TRG's. -/
theorem wrongAgentIsRefused : Obligations.WrongAgentIsRefused := by
  constructor
  · intro s agent w rest hh hag hin
    refine step_of_nextOf_refuse ?_
    rw [nextOf_commandFirst hin, whileEnabled_running hh, onCommand, if_neg hag]
  · intro s agent w rest i hh hin hd hi
    refine step_of_nextOf_refuse ?_
    have hp : presenter i ≠ some agent := by
      rcases hi with ⟨⟨d, rfl⟩, hag⟩ | ⟨rfl, hag⟩ <;> exact fun h => hag (Option.some.inj h).symm
    rw [nextOf_eventFirst hin, whileEnabled_running hh, onEvent_notOwner hd hp]

end Sys2Proof.Machine

/-! PROOFS. 70_reset_and_hazards.md: the wait where nothing is presented, and the state a reset leaves. -/

namespace Sys2Proof

/-- A byte with a single bit set has one bit. -/
theorem popcount_twoPow (i : Fin 8) : popcount (BitVec.twoPow 8 i.val) = 1 := by
  decide +revert

/-- The machine's two device addresses differ in the direction bit alone (R7). -/
theorem Config.machine_wellFormed : Config.machine.wellFormed = true := by
  have hdiff : Config.machine.devWaddr ^^^ Config.machine.devRaddr =
      BitVec.twoPow 8 Config.openDirectionBit.val := by
    rw [Config.machine, ← BitVec.xor_assoc, BitVec.xor_self, BitVec.zero_xor]
  rw [Config.wellFormed, hdiff, popcount_twoPow]
  rfl

end Sys2Proof

namespace Sys2Proof.Machine

/-- Settles O6: a running block with an empty schedule has nothing to take. -/
theorem blockWaitsForAnInput : Obligations.BlockWaitsForAnInput := by
  intro s hh hin
  rw [step, nextOf_nil hin, whileEnabled_running hh]

/-! ### The state a reset leaves (R240) -/

/-- A presented reset is taken whatever HALT is: the configuration and the later inputs stay, all else is set anew. -/
theorem step_reset {s : State} {src : ResetSource} {rest : List Input} (h : s.inputs = .reset src :: rest) :
    step s = .next (State.afterReset s.cfg s.draws rest) := by
  rw [step, nextOf_resetFirst h]
  rfl

/-- CMDW and CMDR hold their values right after a reset (20_memory.md R50, R52). -/
theorem memRead_afterReset_rom (c : Config) (n : Nat) (is : List Input) :
    memRead (State.afterReset c n is) 0x08#8 = c.devWaddr ∧ memRead (State.afterReset c n is) 0x09#8 = 0x00#8 ∧
      memRead (State.afterReset c n is) 0x0A#8 = c.devRaddr :=
  have hm := afterReset_wf c n is
  ⟨memRead_devWaddr hm, memRead_regIndex hm, memRead_devRaddr hm⟩

/-- The status word of an idle engine with no target and FLAG clear (42_handoff.md R182). -/
theorem statusWord_afterReset (c : Config) (n : Nat) (is : List Input) :
    statusWord (State.afterReset c n is) = 0x0000#16 := by
  simp only [statusWord, State.afterReset]
  decide

/-- Settles O46: the next state is the one `State.afterReset` writes out, whatever the state before. -/
theorem resetSetsEveryPieceOfState : Obligations.ResetSetsEveryPieceOfState := by
  intro s src rest hin
  obtain ⟨hwaddr, hindex, hraddr⟩ := memRead_afterReset_rom s.cfg s.draws rest
  exact ⟨_, step_reset hin, rfl, rfl, rfl, rfl, rfl, rfl, rfl, rfl, hwaddr, hindex, hraddr, rfl, rfl⟩

/-- Settles O47: power-on is a reset of the machine's own configuration. -/
theorem powerOnStateIsAsStated : Obligations.PowerOnStateIsAsStated := by
  obtain ⟨hwaddr, hindex, hraddr⟩ := memRead_afterReset_rom Config.machine 0 []
  exact ⟨rfl, rfl, rfl, rfl, rfl, rfl, rfl, rfl, statusWord_afterReset Config.machine 0 [], hwaddr, hindex, hraddr,
    Config.machine_wellFormed⟩

/-- Settles O57: the power-on state is one that a reset leaves, and every such state meets the invariant. -/
theorem invariantHoldsAtReset : Obligations.InvariantHoldsAtReset :=
  invariant_afterReset Config.machine 0 []

end Sys2Proof.Machine
